-- ==== Sys2Proof/Word.lean ====
section
/-! DEFINITION. The word types of the SCP block and the plain numbers its rules use. -/

namespace Sys2Proof

/-- A byte of a transfer, a sentence or a command word (00_scope.md R8). -/
abbrev Byte := BitVec 8

/-- A 32-bit word: an `s32`, a `u32` or a pattern of format `F` (00_scope.md R9, R12). -/
abbrev Word32 := BitVec 32

/-- A 64-bit word, the width of the pressure stage (00_scope.md R10). -/
abbrev Word64 := BitVec 64

/-- A non-negative decimal number `mant / 10 ^ scale`: the digits of a numeric text field and the place of its
point (10_state.md R43 names this form for `LATQ` and `LONQ`). -/
structure Decimal where
  mant : Nat
  scale : Nat
  deriving DecidableEq, Repr, Inhabited

end Sys2Proof
end

