-- ==== Sys2Proof/Config.lean ====
section
/-! DEFINITION. The parameters of an instance (00_scope.md R7, 10_state.md R38), the constants the source fixes, and
the free constants the spec leaves open. A value of `Config` is plain data and stands in State, so a statement about
every state is about every parameter set; no step changes it. -/

namespace Sys2Proof

/-- Which body a configuration function has: the default body the spec writes out, or the `k`-th of the other
admissible ones (93_implementation_defined.md U7 to U10, U16, U18; 92_eei_decisions.md D17, D20). DESIGN CHOICE of
form, log 9. -/
inductive Variant where
  | spec
  | other (k : Nat)
  deriving DecidableEq, Repr

/-- The parameters of an instance (00_scope.md R7). -/
structure Config where
  /-- `DEV_ADDR`, the 7-bit device address. -/
  devAddr : BitVec 7
  /-- `TW`, the width of `TIMEOUT` in bits. -/
  tw : Nat
  /-- `TIMEOUT`, forwarded and never interpreted. -/
  timeout : Nat
  idReg : Byte
  idValue : Byte
  calaReg : Byte
  calbReg : Byte
  calcReg : Byte
  ctrlHumReg : Byte
  ctrlHumVal : Byte
  ctrlMeasReg : Byte
  ctrlMeasVal : Byte
  configReg : Byte
  configVal : Byte
  dataReg : Byte
  /-- `BUF_CAP`, the capacity of the working buffer, terminator included; at least 8 (R7, D23). -/
  bufCap : Nat
  /-- Bodies of the compensation functions (D17). -/
  compT : Variant
  compP : Variant
  compH : Variant
  /-- Bodies of the calibration decode functions (D20). -/
  decA : Variant
  decB : Variant
  decC : Variant
  /-- Bodies of the parser functions (U7, U8, U18, U9). -/
  split : Variant
  scanFrac : Variant
  scanInt : Variant
  conv : Variant
  /-- The float format `F` (U10). -/
  fmt : Variant
  deriving DecidableEq, Repr

/-! ## Constants that are not parameters (92_eei_decisions.md, end) -/

/-- `CALA_LEN` (R7). -/
def Config.calaLen : Nat := 24
/-- `CALB_LEN` (R7). -/
def Config.calbLen : Nat := 1
/-- `CALC_LEN` (R7). -/
def Config.calcLen : Nat := 7
/-- `DATA_LEN` (R7). -/
def Config.dataLen : Nat := 8
/-- `SENT_MAX` (R7, D22): what the length byte of a message can say, log 18. -/
def Config.sentMax : Nat := 255
/-- `NFIELD_MIN` (R7). -/
def Config.nfieldMin : Nat := 8
/-- `HCLAMP_MAX` (R7). -/
def Config.hclampMax : Word32 := 419430400#32
/-- `PREFIX`, the seven bytes of `$GPGGA,` (R7, 44_parser.md R233). -/
def Config.sentencePrefix : List Byte := [0x24#8, 0x47#8, 0x50#8, 0x47#8, 0x47#8, 0x41#8, 0x2C#8]

/-! ## Free constants -/

/-- `TIMEOUT` of the reset instance: the spec fixes no value (R7 OPEN, U11). Free value, log 10. -/
opaque Config.openTimeout : BitVec 32

/-- Another admissible `CompT` (property PT-1 of 43_compensation.md R201): `T1 T2 T3 adc_T` to `(TFINE, TINT)`. Free, log 9. -/
opaque Config.otherCompT (k : Nat) (t1 t2 t3 : BitVec 16) (adcT : BitVec 20) : Word32 × Word32

/-- The denominator of another admissible `CompP` (PP-2 of R201): fields `P1..P9`, `TFINE`, `adc_P`. Free, log 9. -/
opaque Config.otherCompPDen (k : Nat) (p : List (BitVec 16)) (tfine : Word32) (adcP : BitVec 20) : Word64

/-- The result of another admissible `CompP` where its denominator is not zero (PP-1, PP-3 of R201). Free, log 9. -/
opaque Config.otherCompPQuot (k : Nat) (p : List (BitVec 16)) (tfine : Word32) (adcP : BitVec 20) : Word32

/-- The last intermediate of another admissible `CompH`, before the clamp of PH-2 of R201. Free, log 9. -/
opaque Config.otherCompHPre (k : Nat) (h1 : Byte) (h2 : BitVec 16) (h3 : Byte) (h4 h5 : BitVec 16) (h6 : Byte)
    (tfine : Word32) (adcH : BitVec 16) : Word32

/-- Another byte layout of block A (D20): the twelve fields `T1 T2 T3 P1 .. P9` by index. Free, log 9. -/
opaque Config.otherDecA (k : Nat) (block : List Byte) (field : Nat) : BitVec 16

/-- Another byte layout of block B (D20). Free, log 9. -/
opaque Config.otherDecB (k : Nat) (block : List Byte) : Byte

/-- Another byte layout of block C (D20): `H2`, `H3`, the 12-bit `H4` and `H5`, `H6`. Free, log 9. -/
opaque Config.otherDecC (k : Nat) (block : List Byte) : BitVec 16 × Byte × BitVec 12 × BitVec 12 × Byte

/-- Another splitting of the kept text into (start, length) pairs (U7), used where the readings need not agree.
Free, log 9 and 38. -/
opaque Config.otherSplit (k : Nat) (text : List Byte) : List (Nat × Nat)

/-- Another reading of a degrees-minutes text (U8), used outside the grammar of 44_parser.md R238. Free, log 9 and
38. -/
opaque Config.otherScanFrac (k : Nat) (text : List Byte) : Decimal

/-- Another reading of an integer text (U8, U18), used outside the grammar of 44_parser.md R239 and beyond 31 bits. Free,
log 9 and 38. -/
opaque Config.otherScanInt (k : Nat) (text : List Byte) : Word32

/-- The magnitude pattern of another coordinate conversion (U9), of the rational `num / den` in lowest terms. Free,
log 9 and 31. -/
opaque Config.otherConvMag (k num den : Nat) : BitVec 31

/-- Rounding of the rational `num / den` in lowest terms, negated if `neg`, to another 32-bit float format (U10). Free, log 9 and 35. -/
opaque Config.otherRound (k : Nat) (neg : Bool) (num den : Nat) : Word32

/-- The value of a pattern of another float format as sign, numerator and denominator (U10). Free, log 9 and
35. -/
opaque Config.otherValue (k : Nat) (pattern : Word32) : Bool × Nat × Nat

/-! ## The default instance -/

/-- The parameter values of 00_scope.md R7. The numbers marked general knowledge there are the spec's, from outside its
source: PRESUMED, log 17; unsafe for any statement that rests on one. -/
def Config.default : Config where
  devAddr := 0x76#7
  tw := 32
  timeout := Config.openTimeout.toNat
  idReg := 0xD0#8
  idValue := 0x60#8
  calaReg := 0x88#8
  calbReg := 0xA1#8
  calcReg := 0xE1#8
  ctrlHumReg := 0xF2#8
  ctrlHumVal := 0x01#8
  ctrlMeasReg := 0xF4#8
  ctrlMeasVal := 0x27#8
  configReg := 0xF5#8
  configVal := 0xA0#8
  dataReg := 0xF7#8
  bufCap := 100
  compT := .spec
  compP := .spec
  compH := .spec
  decA := .spec
  decB := .spec
  decC := .spec
  split := .spec
  scanFrac := .spec
  scanInt := .spec
  conv := .spec
  fmt := .spec

/-- A parameter set the spec admits: no burst runs past offset 0xFF (20_memory.md R65, U5), `TIMEOUT` fits its width
(R7) and `BUF_CAP` is at least 8 (D23). -/
def Config.admitted (c : Config) : Bool :=
  decide (c.calaReg.toNat + Config.calaLen ≤ 256) && decide (c.calcReg.toNat + Config.calcLen ≤ 256) &&
    decide (c.dataReg.toNat + Config.dataLen ≤ 256) && decide (c.timeout < 2 ^ c.tw) &&
    decide (8 ≤ c.bufCap)

end Sys2Proof
end

