-- ==== Sys2Proof/Syntax.lean ====
section
/-! DEFINITION. The instructions: one constructor per row of spec/opcode_table.json, and the message types of the ports. -/

namespace Sys2Proof

/-- The formats of 30_encoding.md R90 that carry an instruction word. The four unit formats number their words
independently of one another (R99): a word is an instruction only together with the format of the port or step
register it stands on. -/
inductive Format where
  | cmd8
  | pcmdv
  | seq4
  | pseq3
  | busreq
  deriving DecidableEq, Repr

/-- The kind of a bus request, bit 0 of format `BUSREQ` (30_encoding.md R96). -/
inductive BusKind where
  | rd
  | wr
  deriving DecidableEq, Repr

/-- A request on `BUSREQ` (30_encoding.md R96). `timeout` is a number below `2 ^ TW`. -/
structure BusReq where
  kind : BusKind
  dev : BitVec 7
  reg : Byte
  len : Byte
  wdata : Byte
  timeout : Nat
  deriving DecidableEq, Repr

/-- A response on `BUSRSP` (30_encoding.md R97). The field `n'` is the number of data bytes, 0 to 255. -/
structure BusRsp where
  ok : Bool
  data : List Byte
  /-- `n'` fits its eight bits (R97). -/
  fits : data.length ≤ 255 := by decide
  deriving DecidableEq, Repr

/-- The instructions of the block: host commands, steps of the two units, requests to the bus collaborator. -/
inductive Instr where
  /-- `INIT`, 40_commands.md R121. -/
  | init
  /-- `READ`, 40_commands.md R122. -/
  | read
  /-- `PARSE` with its operand bytes, 40_commands.md R123. -/
  | parse (operand : List Byte)
  /-- `IDLE`, 41_sequencer.md R143. -/
  | idle
  /-- `I_ID`, R144. -/
  | iId
  /-- `I_CALA`, R145. -/
  | iCala
  /-- `I_CALB`, R146. -/
  | iCalb
  /-- `I_CALC`, R147. -/
  | iCalc
  /-- `I_WHUM`, R148. -/
  | iWhum
  /-- `I_WMEAS`, R149. -/
  | iWmeas
  /-- `I_WCFG`, R150. -/
  | iWcfg
  /-- `I_DONE`, R151. -/
  | iDone
  /-- `R_DATA`, R152. -/
  | rData
  /-- `R_UNPK`, R153. -/
  | rUnpk
  /-- `R_CMPT`, R154. -/
  | rCmpt
  /-- `R_CMPP`, R155. -/
  | rCmpp
  /-- `R_CMPH`, R156. -/
  | rCmph
  /-- `R_CVT`, R157. -/
  | rCvt
  /-- `R_DONE`, R158. -/
  | rDone
  /-- `P_IDLE`, 44_parser.md R232. -/
  | pIdle
  /-- `P_PFX`, R233. -/
  | pPfx
  /-- `P_COPY`, R234. -/
  | pCopy
  /-- `P_SPLIT`, R235. -/
  | pSplit
  /-- `P_CNT`, R236. -/
  | pCnt
  /-- `P_SCAN`, R237. -/
  | pScan
  /-- `P_CONV`, R241. -/
  | pConv
  /-- `P_DONE`, R243. -/
  | pDone
  /-- `RD`, a register read request, 20_memory.md R62. -/
  | rd (dev : BitVec 7) (reg len wdata : Byte) (timeout : Nat)
  /-- `WR`, a register write request, 20_memory.md R63. -/
  | wr (dev : BitVec 7) (reg len wdata : Byte) (timeout : Nat)
  deriving DecidableEq, Repr

/-- The port or step register an instruction's word stands on (spec/opcode_table.json, the rows' formats). -/
def Instr.format : Instr → Format
  | .init | .read => .cmd8
  | .parse _ => .pcmdv
  | .idle | .iId | .iCala | .iCalb | .iCalc | .iWhum | .iWmeas | .iWcfg | .iDone => .seq4
  | .rData | .rUnpk | .rCmpt | .rCmpp | .rCmph | .rCvt | .rDone => .seq4
  | .pIdle | .pPfx | .pCopy | .pSplit | .pCnt | .pScan | .pConv | .pDone => .pseq3
  | .rd .. | .wr .. => .busreq

end Sys2Proof
end

