-- ==== Sys2Proof/Machine/State.lean ====
section
/-! DEFINITION. The state of the block as plain data (10_state.md), the reasons a step stops, and the state after
reset (10_state.md R48, 70_reset_and_hazards.md R300). -/

namespace Sys2Proof.Machine

/-- The content of a register: the spec's `UNSPEC`, which "holds no value" (10_state.md R22), or a value. `UNSPEC` is
the reset value the spec states for most registers (R48) and what a failed command leaves (60_exceptions.md R279). -/
inductive Reg (α : Type) where
  | unspec
  | val (v : α)
  deriving DecidableEq, Repr

/-- `DSTATE` (10_state.md R23). -/
inductive DState where
  | uninit
  | initializing
  | ready
  | reading
  deriving DecidableEq, Repr

/-- The number that encodes a driver state (10_state.md R23). -/
def DState.code : DState → BitVec 2
  | .uninit => 0#2
  | .initializing => 1#2
  | .ready => 2#2
  | .reading => 3#2

/-- The calibration file (10_state.md R34, R36). -/
structure Cal where
  t1 : Reg (BitVec 16)
  t2 : Reg (BitVec 16)
  t3 : Reg (BitVec 16)
  p1 : Reg (BitVec 16)
  p2 : Reg (BitVec 16)
  p3 : Reg (BitVec 16)
  p4 : Reg (BitVec 16)
  p5 : Reg (BitVec 16)
  p6 : Reg (BitVec 16)
  p7 : Reg (BitVec 16)
  p8 : Reg (BitVec 16)
  p9 : Reg (BitVec 16)
  h1 : Reg Byte
  h2 : Reg (BitVec 16)
  h3 : Reg Byte
  /-- A 12-bit signed value in an `s16`. -/
  h4 : Reg (BitVec 16)
  /-- A 12-bit signed value in an `s16`. -/
  h5 : Reg (BitVec 16)
  h6 : Reg Byte
  deriving DecidableEq, Repr

/-- `CAL` with every field `UNSPEC` (10_state.md R48, 60_exceptions.md R280). -/
def Cal.unspec : Cal where
  t1 := .unspec
  t2 := .unspec
  t3 := .unspec
  p1 := .unspec
  p2 := .unspec
  p3 := .unspec
  p4 := .unspec
  p5 := .unspec
  p6 := .unspec
  p7 := .unspec
  p8 := .unspec
  p9 := .unspec
  h1 := .unspec
  h2 := .unspec
  h3 := .unspec
  h4 := .unspec
  h5 := .unspec
  h6 := .unspec

/-- The RD unit's response register (10_state.md R33). -/
structure Rsp where
  valid : Bool
  op : Reg Byte
  status : Reg Byte
  tf : Reg Word32
  pf : Reg Word32
  hf : Reg Word32
  tint : Reg Word32
  pint : Reg Word32
  hint : Reg Word32
  deriving DecidableEq, Repr

/-- `RSP` as reset and command acceptance leave it (10_state.md R33, R48). -/
def Rsp.cleared : Rsp where
  valid := false
  op := .unspec
  status := .unspec
  tf := .unspec
  pf := .unspec
  hf := .unspec
  tint := .unspec
  pint := .unspec
  hint := .unspec

/-- The SP unit's response register (10_state.md R44). -/
structure Prsp where
  valid : Bool
  op : Reg Byte
  status : Reg Byte
  lat : Reg Word32
  lon : Reg Word32
  qual : Reg Word32
  sats : Reg Word32
  deriving DecidableEq, Repr

/-- `PRSP` as reset and command acceptance leave it (10_state.md R44, R48). -/
def Prsp.cleared : Prsp where
  valid := false
  op := .unspec
  status := .unspec
  lat := .unspec
  lon := .unspec
  qual := .unspec
  sats := .unspec

/-- The RD unit (10_state.md R23 to R36). -/
structure RdUnit where
  dstate : DState
  seq : BitVec 4
  buspend : Bool
  busreqR : Reg BusReq
  xbuf : List (Reg Byte)
  xlen : Reg (BitVec 5)
  tfine : Reg Word32
  rawP : Reg (BitVec 20)
  rawT : Reg (BitVec 20)
  rawH : Reg (BitVec 16)
  tint : Reg Word32
  pint : Reg Word32
  hint : Reg Word32
  tf : Reg Word32
  pf : Reg Word32
  hf : Reg Word32
  rsp : Rsp
  cal : Cal
  deriving DecidableEq, Repr

/-- The SP unit (10_state.md R40 to R44). -/
structure SpUnit where
  pseq : BitVec 3
  sent : Reg (List Byte)
  wbuf : List (Reg Byte)
  wlen : Reg Nat
  nf : Reg Nat
  fs : List (Reg Nat)
  fl : List (Reg Nat)
  latq : Reg Decimal
  lonq : Reg Decimal
  hlat : Reg (Option Byte)
  hlon : Reg (Option Byte)
  qual : Reg Word32
  sats : Reg Word32
  lat : Reg Word32
  lon : Reg Word32
  prsp : Prsp
  deriving DecidableEq, Repr

/-- Bytes of the sensor register space by offset (20_memory.md R60): strictly rising offsets below 256, listing what
the block has written; an unlisted offset holds no value known to the block (log 11). -/
abbrev Memory := List Host.Cell

/-- The sensor as far as the spec gives it (10_state.md R39): the register bytes the block has written, and the
humidity-oversampling setting in effect (R46 (2), 20_memory.md R75). No turn takes them away: a loss of the sensor's
power (70_reset_and_hazards.md R319) is no event of the model (DESIGN CHOICE, log 34). -/
structure Sensor where
  regs : Memory
  humInEffect : Option Byte
  deriving DecidableEq, Repr

/-- The bus side of the RD unit: the message on `BUSRSP` (00_scope.md R15), the requests the collaborator holds
unanswered, oldest first (70_reset_and_hazards.md R301), and the sensor behind it. -/
structure Bus where
  busrsp : Option BusRsp
  inFlight : List BusReq
  sensor : Sensor
  deriving DecidableEq, Repr

/-- The fields of `RSP` a host can read besides `VALID` (10_state.md R33). -/
inductive RspField where
  | op
  | status
  | tf
  | pf
  | hf
  | tint
  | pint
  | hint
  deriving DecidableEq, Repr

/-- The fields of `PRSP` a host can read besides `VALID` (10_state.md R44). -/
inductive PrspField where
  | op
  | status
  | lat
  | lon
  | qual
  | sats
  deriving DecidableEq, Repr

/-- Who moves next (00_scope.md R14); the interleaving is free (93_implementation_defined.md U20), log 1. -/
inductive Turn where
  /-- The host sends the next word on `CMD`. -/
  | host
  /-- The host sends the next message on `PCMD`. -/
  | hostSp
  /-- The host reads a field of `RSP`. -/
  | readRsp (f : RspField)
  /-- The host reads a field of `PRSP`. -/
  | readPrsp (f : PrspField)
  /-- The RD unit takes its step. -/
  | rd
  /-- The SP unit takes its step. -/
  | sp
  /-- The collaborator carries out the oldest request it holds. -/
  | bus
  /-- The collaborator sends a response nobody asked for (U4). -/
  | busUnasked
  /-- `RST` is asserted. -/
  | rst
  deriving DecidableEq, Repr

/-- The outside world as data (the model's own fields, log 1 and 5): free inputs that a statement about every state
covers. -/
structure Env where
  turns : List Turn
  cmdIn : List Byte
  pcmdIn : List Byte
  answers : List BusRsp
  deriving DecidableEq, Repr

/-- The whole machine: one instance (60_exceptions.md R292), its parameters, its bus side and the outside world. -/
structure State where
  cfg : Config
  rd : RdUnit
  sp : SpUnit
  bus : Bus
  env : Env
  deriving DecidableEq, Repr

/-- Names of the registers whose read can meet `UNSPEC`. -/
inductive RegName where
  | xbuf
  | tfine
  | rawP
  | rawT
  | rawH
  | tint
  | pint
  | hint
  | tf
  | pf
  | hf
  /-- Field number `i` of `CAL` (10_state.md R36). -/
  | cal (i : Nat)
  | sent
  | wbuf
  | wlen
  | nf
  | fs (i : Nat)
  | fl (i : Nat)
  | latq
  | lonq
  | hlat
  | hlon
  | qual
  | sats
  | lat
  | lon
  deriving DecidableEq, Repr

/-- Why the machine stops with a fault. -/
inductive Fault where
  /-- A step read a register that holds no value (10_state.md R22, 93_implementation_defined.md U1: "fault"). Raised
  by the step meanings through `Reg.get`. Safe. -/
  | unspecRegister (r : RegName)
  /-- The host read a field of `RSP` that is not present (60_exceptions.md R284, U2: "fault"). Raised by a host
  turn. Safe. -/
  | unspecResponse (f : RspField)
  /-- The host read a field of `PRSP` that is not present (R284, U2). Raised by a host turn. Safe. -/
  | unspecPResponse (f : PrspField)
  deriving DecidableEq, Repr

/-- Why the model has no transition. -/
inductive Refusal where
  /-- An instruction without a meaning; raised by an arm of exec only. Safe. -/
  | notModelled (mnemonic : String)
  /-- A word sent on `CMD` while `SEQ != 0`: "The send has no step" (00_scope.md R15, U15: "refuse"). Raised by the
  meanings of INIT and READ, never by step. Safe. -/
  | cmdPortNotReady
  /-- A message sent on `PCMD` while `PSEQ != 0` (R15, U15). Raised by the meaning of PARSE, never by step. Safe. -/
  | pcmdPortNotReady
  /-- `INIT` at `SEQ = 0` with `DSTATE` 1 or 3: none of the four cases of 40_commands.md R120, which calls them
  exhaustive because 10_state.md R24 rules that state out. Safe, log 13. -/
  | initInBusyDriverState
  /-- A parameter set in which a burst passes offset 0xFF (20_memory.md R65, U5: "refuse"). Raised by the issue half
  and by the collaborator's read. Safe, log 7. -/
  | burstPastEnd
  /-- The answer to a request from before a reset while a command started after it runs (70_reset_and_hazards.md R301,
  U6: "refuse"). Raised by `deliver`. Safe, log 6 and 33. -/
  | lateAnswer
  /-- A second or unasked answer while a request is outstanding (20_memory.md R80 (a), U4: "refuse"). Safe, log 6. -/
  | answeredTwice
  deriving DecidableEq, Repr

/-- The outcome of one instruction or one step. -/
abbrev StepOut := Host.Outcome State Fault Refusal

/-! ## Reset values (10_state.md R48) -/

/-- The RD unit after reset. -/
def RdUnit.reset : RdUnit where
  dstate := .uninit
  seq := 0#4
  buspend := false
  busreqR := .unspec
  xbuf := List.replicate 24 .unspec
  xlen := .val 0#5
  tfine := .unspec
  rawP := .unspec
  rawT := .unspec
  rawH := .unspec
  tint := .unspec
  pint := .unspec
  hint := .unspec
  tf := .unspec
  pf := .unspec
  hf := .unspec
  rsp := Rsp.cleared
  cal := Cal.unspec

/-- The SP unit after reset, with a working buffer of `cap` bytes. `SENT` is `UNSPEC` as R48 has it; R41's addition
"(length 0)" is not held as a length (DESIGN CHOICE, log 32). -/
def SpUnit.reset (cap : Nat) : SpUnit where
  pseq := 0#3
  sent := .unspec
  wbuf := List.replicate cap .unspec
  wlen := .unspec
  nf := .unspec
  fs := List.replicate 8 .unspec
  fl := List.replicate 8 .unspec
  latq := .unspec
  lonq := .unspec
  hlat := .unspec
  hlon := .unspec
  qual := .unspec
  sats := .unspec
  lat := .unspec
  lon := .unspec
  prsp := Prsp.cleared

/-- The machine right after reset: both units as R48 says, the default instance, a bus with nothing in flight, a
sensor the block has not written, and no inputs yet. -/
def State.reset : State where
  cfg := Config.default
  rd := RdUnit.reset
  sp := SpUnit.reset Config.default.bufCap
  bus := { busrsp := none, inFlight := [], sensor := { regs := [], humInEffect := none } }
  env := { turns := [], cmdIn := [], pcmdIn := [], answers := [] }

/-! ## Updates of one part -/

/-- `s` with another RD unit. -/
def State.withRd (s : State) (r : RdUnit) : State := { s with rd := r }
/-- `s` with another SP unit. -/
def State.withSp (s : State) (p : SpUnit) : State := { s with sp := p }
/-- `s` with another bus side. -/
def State.withBus (s : State) (b : Bus) : State := { s with bus := b }
/-- `s` with other inputs. -/
def State.withEnv (s : State) (e : Env) : State := { s with env := e }

end Sys2Proof.Machine
end

