-- ==== Sys2Proof/Machine/Flags.lean ====
section
/-! DEFINITION. The one-bit values that act as flags (10_state.md R26), port readiness (00_scope.md R15) and the
status codes (60_exceptions.md R270). The block has no condition codes. -/

namespace Sys2Proof.Machine

/-- The errors of a command (60_exceptions.md R270). -/
inductive Err where
  | identityMismatch
  | calibrationReadFailed
  | configWriteFailed
  | readFailed
  | wrongSentenceType
  | incompleteSentence
  | illegalState
  | illegalCommand
  deriving DecidableEq, Repr

/-- The status code of an error (R270). -/
def Err.code : Err → Byte
  | .identityMismatch => 0x01#8
  | .calibrationReadFailed => 0x02#8
  | .configWriteFailed => 0x03#8
  | .readFailed => 0x04#8
  | .wrongSentenceType => 0x05#8
  | .incompleteSentence => 0x06#8
  | .illegalState => 0x80#8
  | .illegalCommand => 0x81#8

/-- Status `OK` (R270). -/
def statusOk : Byte := 0x00#8

/-- The opcode of `INIT` (30_encoding.md R98). -/
def opInit : Byte := 0x01#8
/-- The opcode of `READ` (R98). -/
def opRead : Byte := 0x02#8
/-- The opcode of `PARSE` (R98). -/
def opParse : Byte := 0x03#8

/-- `BUSY = (SEQ != 0)` (10_state.md R26). -/
def busy (s : State) : Bool := s.rd.seq != 0#4
/-- `PBUSY = (PSEQ != 0)` (10_state.md R26). -/
def pbusy (s : State) : Bool := s.sp.pseq != 0#3
/-- `CMD` is ready exactly when `SEQ = 0` (10_state.md R24). -/
def cmdReady (s : State) : Bool := !busy s
/-- `PCMD` is ready exactly when `PSEQ = 0` (10_state.md R40). -/
def pcmdReady (s : State) : Bool := !pbusy s

end Sys2Proof.Machine
end

