-- ==== Sys2Proof/Machine/Ops.lean ====
section
/-! DEFINITION. The named operations over registers, buffers, the sensor's register space, the responses and the bus;
trap entry (60_exceptions.md R280) is one operation per unit. There is no return from an error (R281): after trap
entry the unit is idle. -/

namespace Sys2Proof.Machine

/-! ## Reading registers (10_state.md R22) -/

/-- The value of a register. A read of `UNSPEC` stops because the spec says so: "must treat any read of it as a fault of
the model" (10_state.md R22; 92_eei_decisions.md D13; 93_implementation_defined.md U1), log 4. -/
def Reg.get {α : Type} (r : Reg α) (n : RegName) : Except Fault α :=
  match r with
  | .unspec => .error (.unspecRegister n)
  | .val v => .ok v

/-- A step's continuation after its register reads. -/
def onRead {α : Type} (x : Except Fault α) (k : α → StepOut) : StepOut :=
  match x with
  | .error e => .fault e
  | .ok a => k a

/-- The bytes of buffer cells, each of which must hold a value (R22). -/
def cellValues (n : RegName) : List (Reg Byte) → Except Fault (List Byte)
  | [] => .ok []
  | c :: cs =>
    match c.get n, cellValues n cs with
    | .ok b, .ok bs => .ok (b :: bs)
    | .error e, _ => .error e
    | _, .error e => .error e


/-- Overwrite the first cells of a buffer with bytes; the rest stays. -/
def overwrite {α : Type} (vs : List α) (buf : List (Reg α)) : List (Reg α) :=
  vs.map Reg.val ++ buf.drop vs.length

/-- A cell of an indexed register file; outside it there is no value. -/
def regAt {α : Type} (file : List (Reg α)) (i : Nat) : Reg α := file.getD i .unspec

/-- The `len` bytes of a buffer from index `start` on, each read as a register of its own (R22). No rule reads outside
the buffer (20_memory.md R82). -/
def readCells (n : RegName) (buf : List (Reg Byte)) (start len : Nat) : Except Fault (List Byte) :=
  cellValues n ((List.range len).map fun k => regAt buf (start + k))

/-! ## The sensor's register space (20_memory.md R60, 10_state.md R39) -/

/-- What the block has written at an offset; an unlisted offset holds no known value. -/
def Memory.read (m : Memory) (a : Nat) : Option Byte :=
  match m with
  | [] => none
  | c :: t => if c.1 = a then some c.2 else Memory.read t a

/-- Write a byte, keeping the offsets strictly rising. -/
def Memory.write (m : Memory) (a : Nat) (v : Byte) : Memory :=
  match m with
  | [] => [(a, v)]
  | c :: t =>
    if a < c.1 then (a, v) :: c :: t
    else if c.1 = a then (a, v) :: t
    else c :: Memory.write t a v

/-- The canonical form: offsets strictly rising and below 256. An unlisted offset reads as no value, so no entry can
equal it. -/
abbrev Memory.wf (m : Memory) : Prop :=
  List.Pairwise (fun x y => x.1 < y.1) m ∧ ∀ c ∈ m, c.1 < 256

/-- A completed register write at the sensor: the byte is stored, and a write to the measurement-control register
puts the humidity-oversampling value written before it into effect (20_memory.md R75; DEDUCED, log 12). -/
def Sensor.write (c : Config) (x : Sensor) (reg v : Byte) : Sensor where
  regs := Memory.write x.regs reg.toNat v
  humInEffect :=
    if reg = c.ctrlMeasReg then
      (match Memory.read (Memory.write x.regs reg.toNat v) c.ctrlHumReg.toNat with
      | some h => some h
      | none => x.humInEffect)
    else x.humInEffect

/-! ## Responses (10_state.md R33, R44) -/

/-- `RSP` at the end of a command without payload: `{VALID = 1, OP, STATUS}`, the payload `UNSPEC`. -/
def Rsp.ended (op status : Byte) : Rsp := { Rsp.cleared with valid := true, op := .val op, status := .val status }

/-- `PRSP` at the end of a command without payload. -/
def Prsp.ended (op status : Byte) : Prsp := { Prsp.cleared with valid := true, op := .val op, status := .val status }

/-- Set `SEQ`. -/
def setSeq (v : BitVec 4) (s : State) : State := s.withRd { s.rd with seq := v }

/-- Set `PSEQ`. -/
def setPseq (v : BitVec 3) (s : State) : State := s.withSp { s.sp with pseq := v }

/-- A refusal on `CMD` (40_commands.md R124, R125): the response and nothing else. -/
def refuseRd (op : Byte) (e : Err) (s : State) : State := s.withRd { s.rd with rsp := Rsp.ended op e.code }

/-- A refusal on `PCMD` (40_commands.md R124). -/
def refuseSp (op : Byte) (e : Err) (s : State) : State := s.withSp { s.sp with prsp := Prsp.ended op e.code }

/-! ## Taking an error (60_exceptions.md R279, R280) -/

/-- Trap entry of the RD unit for a command with opcode `op` (R280): the response carries the code and no payload; a
failed `INIT` leaves `DSTATE = 0`, `CAL` `UNSPEC` and (R279) `XBUF`, `XLEN` `UNSPEC`; a failed `READ` returns to
`DSTATE = 2`. The step register goes to 0. -/
def raiseRd (op : Byte) (e : Err) (s : State) : State :=
  if op = opInit then
    s.withRd { s.rd with
      buspend := false
      rsp := Rsp.ended op e.code
      dstate := .uninit
      cal := Cal.unspec
      xbuf := List.replicate 24 .unspec
      xlen := .unspec
      seq := 0#4 }
  else
    s.withRd { s.rd with
      buspend := false
      rsp := Rsp.ended op e.code
      dstate := .ready
      seq := 0#4 }

/-- Trap entry of the SP unit (R280); the parser working registers become `UNSPEC` (R279; which ones: DEDUCED,
log 15). -/
def raiseSp (e : Err) (s : State) : State :=
  s.withSp { s.sp with
    prsp := Prsp.ended opParse e.code
    nf := .unspec
    fs := List.replicate 8 .unspec
    fl := List.replicate 8 .unspec
    latq := .unspec
    lonq := .unspec
    hlat := .unspec
    hlon := .unspec
    qual := .unspec
    sats := .unspec
    lat := .unspec
    lon := .unspec
    pseq := 0#3 }

/-! ## The bus (20_memory.md R62, R63; 41_sequencer.md R142) -/

/-- The request of `MemRead (reg, n)` (R62). -/
def readReq (c : Config) (reg : Byte) (n : Nat) : BusReq where
  kind := .rd
  dev := c.devAddr
  reg := reg
  len := BitVec.ofNat 8 n
  wdata := 0x00#8
  timeout := c.timeout

/-- The request of `MemWrite (reg, 1, v)` (R63). -/
def writeReq (c : Config) (reg v : Byte) : BusReq where
  kind := .wr
  dev := c.devAddr
  reg := reg
  len := 1#8
  wdata := v
  timeout := c.timeout

/-- The bytes of a request lie below offset 0x100 (20_memory.md R65, U5). -/
def fitsSpace (reg len : Byte) : Bool := decide (reg.toNat + len.toNat ≤ 256)

/-- The issue half of a transfer (R142): the request goes to the collaborator and `BUSPEND <- 1`. -/
def issue (req : BusReq) (s : State) : State :=
  { s with
    rd := { s.rd with busreqR := .val req, buspend := true }
    bus := { s.bus with inFlight := s.bus.inFlight ++ [req] } }

/-- Taking the response (R142): `BUSPEND <- 0`, the port is empty again. -/
def takeResponse (s : State) : State :=
  { s with
    rd := { s.rd with buspend := false }
    bus := { s.bus with busrsp := none } }

/-- `Ok data` of a read answered `{ok, n', data}` (R62): success with exactly `n` bytes. -/
def judgeRead (n : Nat) (r : BusRsp) : Option (List Byte) :=
  if r.ok = true ∧ r.data.length = n then some r.data else none

/-- `XBUF[0..n] <- data`, `XLEN <- n` (R62). -/
def loadXbuf (data : List Byte) (s : State) : State :=
  s.withRd { s.rd with xbuf := overwrite data s.rd.xbuf, xlen := .val (BitVec.ofNat 5 data.length) }

/-- A transfer step (R142): with nothing outstanding it issues; with a request outstanding it waits for the response
and then completes. A request past offset 0xFF belongs to a parameter set the spec does not admit (U5). -/
def transfer (req : BusReq) (complete : BusRsp → State → State) (s : State) : StepOut :=
  if s.rd.buspend then
    match s.bus.busrsp with
    | none => .next s
    | some r => .next (complete r (takeResponse s))
  else if fitsSpace req.reg req.len then .next (issue req s)
  else .refused .burstPastEnd

/-- A step that reads `n` bytes: on `Fail` it raises `e`, on `Ok` the bytes go to `XBUF` and `done` follows. -/
def readTransfer (reg : Byte) (n : Nat) (op : Byte) (e : Err) (done : List Byte → State → State) (s : State) : StepOut :=
  transfer (readReq s.cfg reg n)
    (fun r t =>
      match judgeRead n r with
      | none => raiseRd op e t
      | some data => done data (loadXbuf data t))
    s

/-- A step that writes one byte: on `Fail` it raises `ConfigWriteFailed`, on `Ok` it goes to step `next`; `n'` and
`data` are ignored (R63). -/
def writeTransfer (reg v : Byte) (next : BitVec 4) (s : State) : StepOut :=
  transfer (writeReq s.cfg reg v)
    (fun r t => if r.ok then setSeq next t else raiseRd opInit .configWriteFailed t)
    s

/-- A response arrives from the collaborator, which has removed the request it answers from its list. With a request
outstanding it is the answer to it, unless the collaborator still holds a request (then it answered one from before a
reset: U6) or a response is already present (U4). With nothing outstanding it answers a request from before a reset: the
idle unit ignores it (R80 (c), 41_sequencer.md R143), and while a new command runs the host has broken
70_reset_and_hazards.md R301 (U6). That the violation is refused here, and not where the host sends its command, is the
model's choice (DESIGN CHOICE, log 33). -/
def deliver (r : BusRsp) (s : State) : StepOut :=
  if s.rd.buspend then
    if s.bus.inFlight ≠ [] then .refused .lateAnswer
    else if s.bus.busrsp.isSome then .refused .answeredTwice
    else .next (s.withBus { s.bus with busrsp := some r })
  else if busy s then .refused .lateAnswer
  else .next s

/-- A response nobody asked for (R80 (c), U4): ignored with nothing outstanding, else not admitted. -/
def deliverUnasked (s : State) : StepOut :=
  if s.rd.buspend then .refused .answeredTwice else .next s

/-- The collaborator is done with the oldest request it holds. -/
def dropOldest (s : State) : State := s.withBus { s.bus with inFlight := s.bus.inFlight.tail }

/-- The next answer is used up. -/
def popAnswer (s : State) : State := s.withEnv { s.env with answers := s.env.answers.tail }

/-! ## Reset (70_reset_and_hazards.md R300, R301) -/

/-- `RST`: both units to their reset values in one step; the parameters, the sensor, the requests the collaborator
holds and the inputs stay; a response on the port is discarded. -/
def assertReset (s : State) : State :=
  { s with rd := RdUnit.reset, sp := SpUnit.reset s.cfg.bufCap, bus := { s.bus with busrsp := none } }

/-! ## What the host reads (10_state.md R33, R44, R47; 30_encoding.md R93, R94; 60_exceptions.md R284) -/

/-- The payload of `RSP` is present (R93). -/
def Rsp.hasPayload (r : Rsp) : Bool := r.valid && r.op == .val opRead && r.status == .val statusOk

/-- The payload of `PRSP` is present (R94). -/
def Prsp.hasPayload (r : Prsp) : Bool := r.valid && r.status == .val statusOk

/-- A byte field in a 32-bit result. -/
def widenReg (r : Reg Byte) : Reg Word32 :=
  match r with
  | .unspec => .unspec
  | .val b => .val (b.setWidth 32)

/-- A field of `RSP` as the host sees it: `UNSPEC` where R93 says it is not present. -/
def Rsp.field (r : Rsp) (f : RspField) : Reg Word32 :=
  match f with
  | .op => if r.valid then widenReg r.op else .unspec
  | .status => if r.valid then widenReg r.status else .unspec
  | .tf => if r.hasPayload then r.tf else .unspec
  | .pf => if r.hasPayload then r.pf else .unspec
  | .hf => if r.hasPayload then r.hf else .unspec
  | .tint => if r.hasPayload then r.tint else .unspec
  | .pint => if r.hasPayload then r.pint else .unspec
  | .hint => if r.hasPayload then r.hint else .unspec

/-- A field of `PRSP` as the host sees it (R94). -/
def Prsp.field (r : Prsp) (f : PrspField) : Reg Word32 :=
  match f with
  | .op => if r.valid then widenReg r.op else .unspec
  | .status => if r.valid then widenReg r.status else .unspec
  | .lat => if r.hasPayload then r.lat else .unspec
  | .lon => if r.hasPayload then r.lon else .unspec
  | .qual => if r.hasPayload then r.qual else .unspec
  | .sats => if r.hasPayload then r.sats else .unspec

/-- The host reads a field of `RSP`: nothing changes; an absent field is a fault (R284, U2). -/
def hostReadsRsp (f : RspField) (s : State) : StepOut :=
  match s.rd.rsp.field f with
  | .unspec => .fault (.unspecResponse f)
  | .val _ => .next s

/-- The host reads a field of `PRSP` (R284, U2). -/
def hostReadsPrsp (f : PrspField) (s : State) : StepOut :=
  match s.sp.prsp.field f with
  | .unspec => .fault (.unspecPResponse f)
  | .val _ => .next s

/-- Bits 16:0 of `RSP` once `VALID = 1` (R93): `VALID`, `OP`, `STATUS`. -/
def Rsp.headBits (r : Rsp) : Reg Nat :=
  match r.field .op, r.field .status with
  | .val o, .val t => .val (1 + 2 * o.toNat + 512 * t.toNat)
  | _, _ => .unspec

/-- All 209 bits of `RSP` once every field is present (R93). -/
def Rsp.wordBits (r : Rsp) : Reg Nat :=
  match r.headBits, r.field .tf, r.field .pf, r.field .hf, r.field .tint, r.field .pint, r.field .hint with
  | .val h, .val a, .val b, .val c, .val d, .val e, .val f =>
    .val (h + 2 ^ 17 * a.toNat + 2 ^ 49 * b.toNat + 2 ^ 81 * c.toNat + 2 ^ 113 * d.toNat + 2 ^ 145 * e.toNat
      + 2 ^ 177 * f.toNat)
  | _, _, _, _, _, _, _ => .unspec

/-- Bits 16:0 of `PRSP` once `VALID = 1` (R94). -/
def Prsp.headBits (r : Prsp) : Reg Nat :=
  match r.field .op, r.field .status with
  | .val o, .val t => .val (1 + 2 * o.toNat + 512 * t.toNat)
  | _, _ => .unspec

/-- All 145 bits of `PRSP` once every field is present (R94). -/
def Prsp.wordBits (r : Prsp) : Reg Nat :=
  match r.headBits, r.field .lat, r.field .lon, r.field .qual, r.field .sats with
  | .val h, .val a, .val b, .val c, .val d =>
    .val (h + 2 ^ 17 * a.toNat + 2 ^ 49 * b.toNat + 2 ^ 81 * c.toNat + 2 ^ 113 * d.toNat)
  | _, _, _, _, _ => .unspec

end Sys2Proof.Machine
end

