-- ==== Sys2Proof/Machine/Bus.lean ====
section
/-! DEFINITION. The bus collaborator carrying out a request (20_memory.md R61 to R66, R80). The halves of a transfer
that the RD unit does itself are `issue`, `takeResponse`, `judgeRead` and `transfer` of Machine/Ops.lean. -/

namespace Sys2Proof.Machine

/-- `RD`: the collaborator carries out `ReadRegister (dev, reg, len, timeout)` and answers with whatever `answers`
holds next: any bytes or a failure (R62, R64, R80 (d), U13, U14), so the device, the count and the timeout do not enter the
result (R61: the timeout is the collaborator's business). With no answer yet the request stays (U3). -/
def execRd (_dev : BitVec 7) (reg len _wdata : Byte) (_timeout : Nat) (s : State) : StepOut :=
  if fitsSpace reg len then
    match s.env.answers with
    | [] => .next s
    | a :: _ => deliver a (dropOldest (popAnswer s))
  else .refused .burstPastEnd

/-- `WR`: the collaborator carries out `WriteRegister (dev, reg, [wdata], timeout)`. On success the byte is in the
sensor's register (10_state.md R39, 20_memory.md R72, R75), if the request names the sensor's device address (R60);
on failure the sensor keeps what it had (log 11). -/
def execWr (dev : BitVec 7) (reg _len wdata : Byte) (_timeout : Nat) (s : State) : StepOut :=
  match s.env.answers with
  | [] => .next s
  | a :: _ =>
    let t := dropOldest (popAnswer s)
    if a.ok ∧ dev = s.cfg.devAddr then
      deliver a (t.withBus { t.bus with sensor := t.bus.sensor.write s.cfg reg wdata })
    else deliver a t

end Sys2Proof.Machine
end

