-- ==== Sys2Proof/Machine/Arith.lean ====
section
/-! DEFINITION. The integer primitives of 00_scope.md R10 and 43_compensation.md R211, on two's-complement words. -/

namespace Sys2Proof.Machine

/-- `wrapS32` (R9): the integer in [-2^31, 2^31 - 1] congruent to `z`. -/
def wrapS32 (z : Int) : Int := z.bmod 4294967296
/-- `wrapS64` (R9). -/
def wrapS64 (z : Int) : Int := z.bmod 18446744073709551616
/-- `wrapU32` of an `s64` (R9): the low 32 bits. -/
def wrapU32 (a : Word64) : Word32 := a.setWidth 32

/-- `add32` (R10). -/
def add32 (a b : Word32) : Word32 := a + b
/-- `sub32` (R10). -/
def sub32 (a b : Word32) : Word32 := a - b
/-- `mul32` (R10). -/
def mul32 (a b : Word32) : Word32 := a * b
/-- `shl32` (R10). -/
def shl32 (a : Word32) (k : Nat) : Word32 := a <<< k
/-- `asr32` (R10): the arithmetic right shift. -/
def asr32 (a : Word32) (k : Nat) : Word32 := a.sshiftRight k

/-- `add64` (R10). -/
def add64 (a b : Word64) : Word64 := a + b
/-- `sub64` (R10). -/
def sub64 (a b : Word64) : Word64 := a - b
/-- `mul64` (R10). -/
def mul64 (a b : Word64) : Word64 := a * b
/-- `shl64` (R10). -/
def shl64 (a : Word64) (k : Nat) : Word64 := a <<< k
/-- `asr64` (R10). -/
def asr64 (a : Word64) (k : Nat) : Word64 := a.sshiftRight k
/-- `sdiv64` (R10): the quotient rounded toward zero, `-2^63 / -1` wrapping; never evaluated with divisor zero
(43_compensation.md R206; log 22). -/
def sdiv64 (a b : Word64) : Word64 := a.sdiv b

/-- `clamp` on signed words (R10). -/
def clamp32 (v lo hi : Word32) : Word32 :=
  if v.slt lo then lo else if hi.slt v then hi else v

/-- `sext_32` of a `k`-bit field (R9). -/
def sext32 {k : Nat} (v : BitVec k) : Word32 := v.signExtend 32
/-- `zext_32` of a `k`-bit field (R9). -/
def zext32 {k : Nat} (v : BitVec k) : Word32 := v.setWidth 32
/-- A signed field as an `s64`, unchanged in value (43_compensation.md R205). -/
def sext64 {k : Nat} (v : BitVec k) : Word64 := v.signExtend 64
/-- An unsigned field as an `s64`, unchanged in value (R205). -/
def zext64 {k : Nat} (v : BitVec k) : Word64 := v.setWidth 64

end Sys2Proof.Machine
end

