-- ==== Sys2Proof/Machine/Operands.lean ====
section
/-! DEFINITION. Operand assembly (30_encoding.md R103): the calibration blocks (42_calibration_decode.md R180 to R184),
the data burst (R190), the sentence operand (20_memory.md R81). All functions are total. -/

namespace Sys2Proof.Machine

/-- Byte `k` of a byte string. The rules use it within the string's length only. -/
def byteAt (b : List Byte) (k : Nat) : Byte := b.getD k 0#8

/-- `le16 (b, k)`: byte `k` is bits 7:0, byte `k + 1` bits 15:8 (R180). -/
def le16 (b : List Byte) (k : Nat) : BitVec 16 := byteAt b (k + 1) ++ byteAt b k

/-- The fields of block A in the order `T1 T2 T3 P1 .. P9`. -/
structure BlockA where
  t1 : BitVec 16
  t2 : BitVec 16
  t3 : BitVec 16
  p1 : BitVec 16
  p2 : BitVec 16
  p3 : BitVec 16
  p4 : BitVec 16
  p5 : BitVec 16
  p6 : BitVec 16
  p7 : BitVec 16
  p8 : BitVec 16
  p9 : BitVec 16
  deriving DecidableEq, Repr

/-- `DecA`, default layout (R181). -/
def decASpec (a : List Byte) : BlockA where
  t1 := le16 a 0
  t2 := le16 a 2
  t3 := le16 a 4
  p1 := le16 a 6
  p2 := le16 a 8
  p3 := le16 a 10
  p4 := le16 a 12
  p5 := le16 a 14
  p6 := le16 a 16
  p7 := le16 a 18
  p8 := le16 a 20
  p9 := le16 a 22

/-- `DecA` of the instance (D20). -/
def decA (c : Config) (a : List Byte) : BlockA :=
  match c.decA with
  | .spec => decASpec a
  | .other k =>
    { t1 := Config.otherDecA k a 0, t2 := Config.otherDecA k a 1, t3 := Config.otherDecA k a 2
      p1 := Config.otherDecA k a 3, p2 := Config.otherDecA k a 4, p3 := Config.otherDecA k a 5
      p4 := Config.otherDecA k a 6, p5 := Config.otherDecA k a 7, p6 := Config.otherDecA k a 8
      p7 := Config.otherDecA k a 9, p8 := Config.otherDecA k a 10, p9 := Config.otherDecA k a 11 }

/-- `DecB`, default layout: `H1 = B[0]` (R182). -/
def decBSpec (b : List Byte) : Byte := byteAt b 0

/-- `DecB` of the instance (D20). -/
def decB (c : Config) (b : List Byte) : Byte :=
  match c.decB with
  | .spec => decBSpec b
  | .other k => Config.otherDecB k b

/-- The fields of block C; `H4` and `H5` are sign-extended from 12 bits into their `s16` registers. -/
structure BlockC where
  h2 : BitVec 16
  h3 : Byte
  h4 : BitVec 16
  h5 : BitVec 16
  h6 : Byte
  deriving DecidableEq, Repr

/-- The 12 bits of `H4`: `C[3]` above the low nibble of `C[4]` (R183). -/
def h4Bits (b : List Byte) : BitVec 12 := byteAt b 3 ++ (byteAt b 4).extractLsb' 0 4

/-- The 12 bits of `H5`: `C[5]` above the high nibble of `C[4]` (R183). -/
def h5Bits (b : List Byte) : BitVec 12 := byteAt b 5 ++ (byteAt b 4).extractLsb' 4 4

/-- `DecC`, default layout (R183). -/
def decCSpec (b : List Byte) : BlockC where
  h2 := le16 b 0
  h3 := byteAt b 2
  h4 := (h4Bits b).signExtend 16
  h5 := (h5Bits b).signExtend 16
  h6 := byteAt b 6

/-- `DecC` of the instance (D20): `H4` and `H5` stay 12-bit values under every layout. -/
def decC (c : Config) (b : List Byte) : BlockC :=
  match c.decC with
  | .spec => decCSpec b
  | .other k =>
    let r := Config.otherDecC k b
    { h2 := r.1, h3 := r.2.1, h4 := r.2.2.1.signExtend 16, h5 := r.2.2.2.1.signExtend 16, h6 := r.2.2.2.2 }

/-- A 20-bit sample `{msb, lsb, xlsb[7:4]}` (R190). -/
def sample20 (msb lsb xlsb : Byte) : BitVec 20 := msb ++ lsb ++ xlsb.extractLsb' 4 4

/-- `RAW.P` of a data burst (R190). -/
def unpackP (d : List Byte) : BitVec 20 := sample20 (byteAt d 0) (byteAt d 1) (byteAt d 2)
/-- `RAW.T` of a data burst (R190). -/
def unpackT (d : List Byte) : BitVec 20 := sample20 (byteAt d 3) (byteAt d 4) (byteAt d 5)
/-- `RAW.H` of a data burst (R190). -/
def unpackH (d : List Byte) : BitVec 16 := byteAt d 6 ++ byteAt d 7

/-- The sentence of an operand: the bytes before the first 0x00, or all of them (20_memory.md R81). -/
def sentenceOf (operand : List Byte) : List Byte := operand.takeWhile (· != 0#8)

end Sys2Proof.Machine
end

