-- ==== Sys2Proof/Machine/Commands.lean ====
section
/-! DEFINITION. The host commands INIT, READ, PARSE (40_commands.md R120 to R125) and the answer to an illegal opcode. -/

namespace Sys2Proof.Machine

/-- What acceptance does to `RSP` first: `VALID <- 0`, all other fields `UNSPEC` (R120). -/
def clearRsp (s : State) : State := s.withRd { s.rd with rsp := Rsp.cleared }

/-- What acceptance does to `PRSP` first (44_parser.md R230). -/
def clearPrsp (s : State) : State := s.withSp { s.sp with prsp := Prsp.cleared }

/-- `INIT` taken on `CMD` (R120, R121, R125). -/
def execInit (s : State) : StepOut :=
  if cmdReady s then
    match s.rd.dstate with
    | .ready => .next (refuseRd opInit .illegalState (clearRsp s))
    | .uninit => .next (let t := clearRsp s; t.withRd { t.rd with dstate := .initializing, seq := 1#4 })
    | .initializing => .refused .initInBusyDriverState
    | .reading => .refused .initInBusyDriverState
  else .refused .cmdPortNotReady

/-- `READ` taken on `CMD` (R120, R122, R125). -/
def execRead (s : State) : StepOut :=
  if cmdReady s then
    match s.rd.dstate with
    | .ready => .next (let t := clearRsp s; t.withRd { t.rd with dstate := .reading, seq := 9#4 })
    | .uninit => .next (refuseRd opRead .illegalState (clearRsp s))
    | .initializing => .next (refuseRd opRead .illegalState (clearRsp s))
    | .reading => .next (refuseRd opRead .illegalState (clearRsp s))
  else .refused .cmdPortNotReady

/-- `PARSE` taken on `PCMD` with its operand bytes (R123, 44_parser.md R230). -/
def execParse (operand : List Byte) (s : State) : StepOut :=
  if pcmdReady s then
    .next (let t := clearPrsp s; t.withSp { t.sp with sent := .val (sentenceOf operand), pseq := 1#3 })
  else .refused .pcmdPortNotReady

/-- An illegal opcode taken on `CMD` (R120 case 1, R124). -/
def takeIllegalCmd (op : Byte) (s : State) : StepOut :=
  .next (refuseRd op .illegalCommand (clearRsp s))

/-- An illegal opcode taken on `PCMD`; its operand is discarded (R124, 44_parser.md R230). -/
def takeIllegalPcmd (op : Byte) (s : State) : StepOut :=
  .next (refuseSp op .illegalCommand (clearPrsp s))

end Sys2Proof.Machine
end

