-- ==== Sys2Proof/Machine/Float.lean ====
section
/-! DEFINITION. Format `F` = IEEE 754 binary32 with round to nearest even (00_scope.md R12), and the scale stage
(43_compensation.md R212). Rationals are pairs of naturals, so that everything evaluates. -/

namespace Sys2Proof.Machine

/-- The quotient of naturals rounded to nearest, ties to even. -/
def roundDivEven (n d : Nat) : Nat :=
  let q := n / d
  let r := n % d
  if 2 * r < d then q else if d < 2 * r then q + 1 else q + q % 2

/-- `floor (log2 (n / d))` for positive `n` and `d`. -/
def floorLog2 (n d : Nat) : Int :=
  let a := Nat.log2 n
  let b := Nat.log2 d
  if b ≤ a then
    (if d * 2 ^ (a - b) ≤ n then ((a - b : Nat) : Int) else ((a - b : Nat) : Int) - 1)
  else
    (if d ≤ n * 2 ^ (b - a) then -((b - a : Nat) : Int) else -((b - a : Nat) : Int) - 1)

/-- `n / d` in units of `2 ^ k`, rounded to nearest even. -/
def scaledRound (n d : Nat) (k : Int) : Nat :=
  if 0 ≤ k then roundDivEven n (d * 2 ^ k.toNat) else roundDivEven (n * 2 ^ (-k).toNat) d

/-- The exponent of the units in which `n / d` is rounded: 23 below its leading bit, and -149 for subnormals (R12). -/
def ulpExp (n d : Nat) : Int := max (floorLog2 n d) (-126) - 23

/-- The magnitude pattern (bits 30:0) of `RN_F (n / d)` (R12): nearest, ties to the even fraction, infinity from the
overflow threshold on. -/
def roundMag (n d : Nat) : Nat :=
  if n = 0 then 0
  else min 0x7F800000 ((ulpExp n d + 149).toNat * 8388608 + scaledRound n d (ulpExp n d))

/-- `RN_F` of `n / d`, negated if `neg` (R12): plus zero for zero, the sign of the rounded number otherwise. -/
def roundSpec (neg : Bool) (n d : Nat) : Word32 :=
  if n = 0 then 0#32
  else BitVec.ofNat 32 (roundMag n d + if neg then 2147483648 else 0)

/-- `val_F` of a finite pattern as sign, numerator, denominator (R12). -/
def valueSpec (p : Word32) : Bool × Nat × Nat :=
  let e := (p.toNat / 8388608) % 256
  let f := p.toNat % 8388608
  let neg := p.msb
  if e = 0 then (neg, f, 2 ^ 149)
  else if e < 150 then (neg, 8388608 + f, 2 ^ (150 - e))
  else (neg, (8388608 + f) * 2 ^ (e - 150), 1)

/-- The rational `n / d` in lowest terms, numerator and denominator, whatever pair of numbers wrote it. -/
def lowestTerms (n d : Nat) : Nat × Nat := (n / Nat.gcd n d, d / Nat.gcd n d)

/-- `RN_F` of the instance's format (R7 `F`, U10). Another format is a free function of the rational: the bounds of 43_compensation.md R213, among
them `0 <= HF <= 100`, hold it to nothing (DESIGN CHOICE, log 35). -/
def roundF (c : Config) (neg : Bool) (n d : Nat) : Word32 :=
  match c.fmt with
  | .spec => roundSpec neg n d
  | .other k => Config.otherRound k neg (lowestTerms n d).1 (lowestTerms n d).2

/-- `val_F` of the instance's format; another format's is free (log 35). -/
def valueF (c : Config) (p : Word32) : Bool × Nat × Nat :=
  match c.fmt with
  | .spec => valueSpec p
  | .other k => Config.otherValue k p

/-- `i2f` of a signed 32-bit value (R12, 43_compensation.md R212). -/
def i2fSigned (c : Config) (v : Word32) : Word32 := roundF c v.msb v.toInt.natAbs 1

/-- `i2f` of an unsigned 32-bit value. -/
def i2fUnsigned (c : Config) (v : Word32) : Word32 := roundF c false v.toNat 1

/-- `fdiv (p, d)` for a finite pattern and a positive constant (R12). -/
def fdiv (c : Config) (p : Word32) (d : Nat) : Word32 :=
  let v := valueF c p
  roundF c v.1 v.2.1 (v.2.2 * d)

/-- `TF` of the scale stage (43_compensation.md R212). -/
def cvtT (c : Config) (tint : Word32) : Word32 := fdiv c (i2fSigned c tint) 100
/-- `PF` of the scale stage (R212). -/
def cvtP (c : Config) (pint : Word32) : Word32 := fdiv c (fdiv c (i2fUnsigned c pint) 256) 100
/-- `HF` of the scale stage (R212). -/
def cvtH (c : Config) (hint : Word32) : Word32 := fdiv c (i2fUnsigned c hint) 1024

end Sys2Proof.Machine
end

