-- ==== Sys2Proof/Machine/Parser.lean ====
section
/-! DEFINITION. The SP unit: the functions `Split`, `NumScanFrac`, `NumScanInt`, `Hemi`, `ConvCoord` and the eight
steps (44_parser.md R230 to R243). -/

namespace Sys2Proof.Machine

/-! ## Functions -/

/-- The comma, the separator of fields (R235). -/
def comma : Byte := 0x2C#8
/-- The point of a numeric text (R238). -/
def point : Byte := 0x2E#8

/-- The fields of a text from index `i` on, where the current field began at `start` (R235): (start, length) pairs.
Every comma separates and empty fields are kept. -/
def splitFrom (start i : Nat) : List Byte → List (Nat × Nat)
  | [] => [(start, i - start)]
  | c :: cs => if c = comma then (start, i - start) :: splitFrom (i + 1) (i + 1) cs else splitFrom start (i + 1) cs

/-- `Split` (R235), default reading. -/
def splitSpec (w : List Byte) : List (Nat × Nat) := splitFrom 0 0 w

/-- A field kept inside a text of `n` bytes (20_memory.md R82). -/
def clipField (n : Nat) (f : Nat × Nat) : Nat × Nat := (min f.1 n, min f.2 (n - min f.1 n))

/-- No one of the first eight fields is empty: the sentences on which 93_implementation_defined.md U7 says that the
readings of `Split` agree. -/
def firstFieldsFull (fields : List (Nat × Nat)) : Bool := (fields.take 8).all fun f => f.2 != 0

/-- Another splitting `alt` of a text whose default fields are `fields`: the first eight where U7 says the readings
agree, and no further one where there are no more than eight; free otherwise. That the fields behind the eighth are free
there too is the model's choice (DESIGN CHOICE, log 38). -/
def splitAgreeing (fields alt : List (Nat × Nat)) : List (Nat × Nat) :=
  if firstFieldsFull fields then fields.take 8 ++ (if fields.length ≤ 8 then [] else alt.drop 8) else alt

/-- `Split` of the instance (U7); another splitting agrees with the default where U7 says so, and stays inside the text
(20_memory.md R82). Elsewhere its fields may overlap, so R248's bound on what `P_SCAN` reads in total does not hold it
there (DESIGN CHOICE, log 37). -/
def splitText (c : Config) (w : List Byte) : List (Nat × Nat) :=
  match c.split with
  | .spec => splitSpec w
  | .other k => (splitAgreeing (splitSpec w) (Config.otherSplit k w)).map (clipField w.length)

/-- `'0'` to `'9'`. -/
def isDigit (b : Byte) : Bool := decide (0x30 ≤ b.toNat) && decide (b.toNat ≤ 0x39)

/-- `dec`: the decimal value of a digit string, 0 for the empty one (R238). -/
def decValue (digits : List Byte) : Nat := digits.foldl (fun acc d => 10 * acc + (d.toNat - 0x30)) 0

/-- `NumScanFrac` (R238), default grammar: digits, optional point, digits. -/
def scanFracSpec (t : List Byte) : Decimal :=
  let a := t.takeWhile isDigit
  match t.dropWhile isDigit with
  | [] => { mant := decValue a, scale := 0 }
  | c :: rest =>
    if c = point then
      let b := rest.takeWhile isDigit
      { mant := decValue (a ++ b), scale := b.length }
    else { mant := decValue a, scale := 0 }

/-- The text lies inside the grammar of R238 as a whole: digits, an optional point, digits. These are the well-formed
fields of 93_implementation_defined.md U8, which names the grammar without saying whether the point or the digits on
one side may be absent, or all digits; here they may, as in R238 (DESIGN CHOICE, log 38). -/
def wellFormedFrac (t : List Byte) : Bool :=
  match t.dropWhile isDigit with
  | [] => true
  | x :: rest => decide (x = point) && rest.all isDigit

/-- `NumScanFrac` of the instance (U8): on well-formed text all readings agree; another reading of other text is
free. -/
def scanFrac (c : Config) (t : List Byte) : Decimal :=
  match c.scanFrac with
  | .spec => scanFracSpec t
  | .other k => if wellFormedFrac t then scanFracSpec t else Config.otherScanFrac k t

/-- `NumScanInt` (R239), default: the leading digits, saturating at `0x7FFFFFFF`. -/
def scanIntSpec (t : List Byte) : Word32 := BitVec.ofNat 32 (min (decValue (t.takeWhile isDigit)) 2147483647)

/-- The text is digits only, the whole of R239's grammar, and its value fits 31 bits: beyond them the reading is open
(U18). The well-formed integer fields of U8, the empty one with them (DESIGN CHOICE, log 38). -/
def wellFormedInt (t : List Byte) : Bool := t.all isDigit && decide (decValue t ≤ 2147483647)

/-- `NumScanInt` of the instance (U8, U18): on well-formed text all readings agree; another reading of other text is
free. -/
def scanInt (c : Config) (t : List Byte) : Word32 :=
  match c.scanInt with
  | .spec => scanIntSpec t
  | .other k => if wellFormedInt t then scanIntSpec t else Config.otherScanInt k t

/-- `Hemi` (R240): the first byte of the field. -/
def hemi (t : List Byte) : Option Byte := t.head?

/-- South and West negate: the bytes `'S'` and `'W'` and no other (R240, R242). -/
def negates (h : Option Byte) : Bool := h == some 0x53#8 || h == some 0x57#8

/-- Whole degrees of a magnitude: `floor (q / 100)` (R242). -/
def degrees (q : Decimal) : Nat := q.mant / (100 * 10 ^ q.scale)

/-- Minutes of a magnitude, in units of `1 / 10 ^ scale`: `q - 100 * deg` (R242). -/
def minutes (q : Decimal) : Nat := q.mant % (100 * 10 ^ q.scale)

/-- `r = deg + min / 60` of R242 as numerator and denominator. The rule's "equivalent closed form" with a plus sign
contradicts its pseudocode and every vector; the pseudocode is followed (log 23). -/
def signlessDegrees (q : Decimal) : Nat × Nat :=
  (60 * degrees q * 10 ^ q.scale + minutes q, 60 * 10 ^ q.scale)

/-- `ConvCoord` (R242), default: exact, one rounding; zero passes through as plus zero. In another float format the
rounding is free, so R247's signs of a non-zero magnitude and R250's absence of NaN are had in the default format only
(DESIGN CHOICE, log 36). -/
def convCoordSpec (c : Config) (q : Decimal) (h : Option Byte) : Word32 :=
  if q.mant = 0 then 0#32
  else roundF c (negates h) (signlessDegrees q).1 (signlessDegrees q).2

/-- `ConvCoord` of the instance (U9), a function of the rational and the hemisphere (R242): another one keeps the sign rule and the zero rule of the source; its magnitude is
free otherwise, zero, infinity and NaN included (DESIGN CHOICE, log 31). -/
def convCoord (c : Config) (q : Decimal) (h : Option Byte) : Word32 :=
  match c.conv with
  | .spec => convCoordSpec c q h
  | .other k =>
    if q.mant = 0 then 0#32
    else (if negates h then 1#1 else 0#1) ++ Config.otherConvMag k (lowestTerms q.mant (10 ^ q.scale)).1
      (lowestTerms q.mant (10 ^ q.scale)).2

/-! ## Steps -/

/-- Step 0, `P_IDLE` (R232): nothing. -/
def execPIdle (s : State) : StepOut := .next s

/-- The prefix test of R233. -/
def prefixMatches (sentence : List Byte) : Bool := sentence.take 7 == Config.sentencePrefix

/-- Step 1, `P_PFX` (R233). -/
def execPPfx (s : State) : StepOut :=
  onRead (s.sp.sent.get .sent) fun sentence =>
    .next (if prefixMatches sentence then setPseq 2#3 s else raiseSp .wrongSentenceType s)

/-- The characters `P_COPY` keeps: at most `BUF_CAP - 1` (R234). -/
def keptText (c : Config) (sentence : List Byte) : List Byte := sentence.take (c.bufCap - 1)

/-- Step 2, `P_COPY` (R234). -/
def execPCopy (s : State) : StepOut :=
  onRead (s.sp.sent.get .sent) fun sentence =>
    .next (s.withSp { s.sp with
      wlen := .val (keptText s.cfg sentence).length
      wbuf := overwrite (keptText s.cfg sentence ++ [0x00#8]) s.sp.wbuf
      pseq := 3#3 })

/-- The kept text `WBUF[0..WLEN]`. -/
def workText (s : State) : Except Fault (List Byte) := do
  let n ← s.sp.wlen.get .wlen
  readCells .wbuf s.sp.wbuf 0 n

/-- Step 3, `P_SPLIT` (R235): only the first eight fields are stored. With fewer than eight fields the rule says nothing of
`FS[j]` and `FL[j]` for `j >= NF`; they keep what they hold (DESIGN CHOICE, log 30). -/
def execPSplit (s : State) : StepOut :=
  onRead (workText s) fun w =>
    let fields := splitText s.cfg w
    .next (s.withSp { s.sp with
      nf := .val fields.length
      fs := overwrite ((fields.take 8).map Prod.fst) s.sp.fs
      fl := overwrite ((fields.take 8).map Prod.snd) s.sp.fl
      pseq := 4#3 })

/-- Step 4, `P_CNT` (R236). -/
def execPCnt (s : State) : StepOut :=
  onRead (s.sp.nf.get .nf) fun n =>
    .next (if n < Config.nfieldMin then raiseSp .incompleteSentence s else setPseq 5#3 s)

/-- `field j` is `WBUF[FS[j] .. FS[j] + FL[j]]` (R237). -/
def fieldText (s : State) (j : Nat) : Except Fault (List Byte) := do
  let start ← (regAt s.sp.fs j).get (.fs j)
  let len ← (regAt s.sp.fl j).get (.fl j)
  readCells .wbuf s.sp.wbuf start len

/-- The texts of fields 2 to 7 (R237). -/
def fixFields (s : State) :
    Except Fault (List Byte × List Byte × List Byte × List Byte × List Byte × List Byte) := do
  let f2 ← fieldText s 2
  let f3 ← fieldText s 3
  let f4 ← fieldText s 4
  let f5 ← fieldText s 5
  let f6 ← fieldText s 6
  let f7 ← fieldText s 7
  return (f2, f3, f4, f5, f6, f7)

/-- Step 5, `P_SCAN` (R237). -/
def execPScan (s : State) : StepOut :=
  onRead (fixFields s) fun (f2, f3, f4, f5, f6, f7) =>
    .next (s.withSp { s.sp with
      latq := .val (scanFrac s.cfg f2)
      hlat := .val (hemi f3)
      lonq := .val (scanFrac s.cfg f4)
      hlon := .val (hemi f5)
      qual := .val (scanInt s.cfg f6)
      sats := .val (scanInt s.cfg f7)
      pseq := 6#3 })

/-- The operands of `P_CONV`. -/
def convOperands (s : State) : Except Fault (Decimal × Option Byte × Decimal × Option Byte) := do
  let latq ← s.sp.latq.get .latq
  let hlat ← s.sp.hlat.get .hlat
  let lonq ← s.sp.lonq.get .lonq
  let hlon ← s.sp.hlon.get .hlon
  return (latq, hlat, lonq, hlon)

/-- Step 6, `P_CONV` (R241). -/
def execPConv (s : State) : StepOut :=
  onRead (convOperands s) fun x =>
    .next (s.withSp { s.sp with
      lat := .val (convCoord s.cfg x.1 x.2.1)
      lon := .val (convCoord s.cfg x.2.2.1 x.2.2.2)
      pseq := 7#3 })

/-- The payload of `P_DONE`: `LAT`, `LON`, `QUAL`, `SATS`. -/
def fixPayload (s : State) : Except Fault (Word32 × Word32 × Word32 × Word32) := do
  let lat ← s.sp.lat.get .lat
  let lon ← s.sp.lon.get .lon
  let qual ← s.sp.qual.get .qual
  let sats ← s.sp.sats.get .sats
  return (lat, lon, qual, sats)

/-- Step 7, `P_DONE` (R243). -/
def execPDone (s : State) : StepOut :=
  onRead (fixPayload s) fun x =>
    .next (s.withSp { s.sp with
      prsp :=
        { valid := true, op := .val opParse, status := .val statusOk
          lat := .val x.1, lon := .val x.2.1, qual := .val x.2.2.1, sats := .val x.2.2.2 }
      pseq := 0#3 })

/-! ## The fused parser (R231: `PRSP <- ParseResult (sentence)`) -/

/-- A field of a text. -/
def fieldOf (w : List Byte) (fields : List (Nat × Nat)) (j : Nat) : List Byte :=
  (w.drop (fields.getD j (0, 0)).1).take (fields.getD j (0, 0)).2

/-- `ParseResult (sentence)`: what a whole `PARSE` leaves in `PRSP` (R231, R253). The step function does not use it;
that the steps come to it is an obligation. -/
def parseResult (c : Config) (sentence : List Byte) : Prsp :=
  if prefixMatches sentence then
    let w := keptText c sentence
    let fields := splitText c w
    if fields.length < Config.nfieldMin then Prsp.ended opParse Err.incompleteSentence.code
    else
      { valid := true, op := .val opParse, status := .val statusOk
        lat := .val (convCoord c (scanFrac c (fieldOf w fields 2)) (hemi (fieldOf w fields 3)))
        lon := .val (convCoord c (scanFrac c (fieldOf w fields 4)) (hemi (fieldOf w fields 5)))
        qual := .val (scanInt c (fieldOf w fields 6))
        sats := .val (scanInt c (fieldOf w fields 7)) }
  else Prsp.ended opParse Err.wrongSentenceType.code

end Sys2Proof.Machine
end

