-- ==== Sys2Proof/Machine/Compensation.lean ====
section
/-! DEFINITION. The compensation functions `CompT`, `CompP`, `CompH` (43_compensation.md R202 to R210): the default
bodies, and the instance's functions, which are the default or another admissible one (R201, D17). -/

namespace Sys2Proof.Machine

/-! ## Temperature (R202, R203) -/

/-- The linear correction `var1` of R203. -/
def tempVar1 (t1 t2 : BitVec 16) (adcT : BitVec 20) : Word32 :=
  let a := sub32 (asr32 (zext32 adcT) 3) (shl32 (zext32 t1) 1)
  asr32 (mul32 a (sext32 t2)) 11

/-- The quadratic correction `var2` of R203. -/
def tempVar2 (t1 t3 : BitVec 16) (adcT : BitVec 20) : Word32 :=
  let d := sub32 (asr32 (zext32 adcT) 4) (zext32 t1)
  asr32 (mul32 (asr32 (mul32 d d) 12) (sext32 t3)) 14

/-- `TINT` from `TFINE` (R203). -/
def tempScale (tfine : Word32) : Word32 := asr32 (add32 (mul32 tfine 5#32) 128#32) 8

/-- Default body of `CompT`: `(TFINE, TINT)` (R203). -/
def compTSpec (t1 t2 t3 : BitVec 16) (adcT : BitVec 20) : Word32 × Word32 :=
  let tfine := add32 (tempVar1 t1 t2 adcT) (tempVar2 t1 t3 adcT)
  (tfine, tempScale tfine)

/-- `CompT` of the instance (R201 PT-1, D17). -/
def compT (c : Config) (t1 t2 t3 : BitVec 16) (adcT : BitVec 20) : Word32 × Word32 :=
  match c.compT with
  | .spec => compTSpec t1 t2 t3 adcT
  | .other k => Config.otherCompT k t1 t2 t3 adcT

/-! ## Pressure (R205, R206) -/

/-- The pressure fields of `CAL`. -/
structure PresCal where
  p1 : BitVec 16
  p2 : BitVec 16
  p3 : BitVec 16
  p4 : BitVec 16
  p5 : BitVec 16
  p6 : BitVec 16
  p7 : BitVec 16
  p8 : BitVec 16
  p9 : BitVec 16
  deriving DecidableEq, Repr

/-- The fields in order, as the alternatives of Config take them. -/
def presFields (x : PresCal) : List (BitVec 16) := [x.p1, x.p2, x.p3, x.p4, x.p5, x.p6, x.p7, x.p8, x.p9]

/-- The final `v2` of R206. -/
def presV2 (x : PresCal) (tfine : Word32) : Word64 :=
  let v1 := sub64 (sext64 tfine) 128000#64
  let v2 := mul64 (mul64 v1 v1) (sext64 x.p6)
  let v2 := add64 v2 (shl64 (mul64 v1 (sext64 x.p5)) 17)
  add64 v2 (shl64 (sext64 x.p4) 35)

/-- The denominator `den` of R206. -/
def presDen (x : PresCal) (tfine : Word32) : Word64 :=
  let v1 := sub64 (sext64 tfine) 128000#64
  let v1 := add64 (asr64 (mul64 (mul64 v1 v1) (sext64 x.p3)) 8) (shl64 (mul64 v1 (sext64 x.p2)) 12)
  asr64 (mul64 (add64 140737488355328#64 v1) (zext64 x.p1)) 33

/-- The numerator `num` of R206. -/
def presNum (x : PresCal) (tfine : Word32) (adcP : BitVec 20) : Word64 :=
  let p := sub64 1048576#64 (zext64 adcP)
  mul64 (sub64 (shl64 p 31) (presV2 x tfine)) 3125#64

/-- The last lines of R206: from the quotient to `PINT`. -/
def presFinish (x : PresCal) (quot : Word64) : Word32 :=
  let w1 := asr64 (mul64 (mul64 (sext64 x.p9) (asr64 quot 13)) (asr64 quot 13)) 25
  let w2 := asr64 (mul64 (sext64 x.p8) quot) 19
  wrapU32 (add64 (asr64 (add64 (add64 quot w1) w2) 8) (shl64 (sext64 x.p7) 4))

/-- Default body of `CompP` (R206): 0 when the denominator is zero. -/
def compPSpec (x : PresCal) (tfine : Word32) (adcP : BitVec 20) : Word32 :=
  if presDen x tfine = 0#64 then 0#32
  else presFinish x (sdiv64 (presNum x tfine adcP) (presDen x tfine))

/-- `CompP` of the instance: every admissible one gives 0 when its denominator is zero (R201 PP-2). -/
def compP (c : Config) (x : PresCal) (tfine : Word32) (adcP : BitVec 20) : Word32 :=
  match c.compP with
  | .spec => compPSpec x tfine adcP
  | .other k =>
    if Config.otherCompPDen k (presFields x) tfine adcP = 0#64 then 0#32
    else Config.otherCompPQuot k (presFields x) tfine adcP

/-! ## Humidity (R208, R209) -/

/-- The humidity fields of `CAL`. -/
structure HumCal where
  h1 : Byte
  h2 : BitVec 16
  h3 : Byte
  h4 : BitVec 16
  h5 : BitVec 16
  h6 : Byte
  deriving DecidableEq, Repr

/-- The final `a` of R209. -/
def humA (x : HumCal) (tfine : Word32) (adcH : BitVec 16) : Word32 :=
  let v := sub32 tfine 76800#32
  let a := sub32 (sub32 (shl32 (zext32 adcH) 14) (shl32 (sext32 x.h4) 20)) (mul32 (sext32 x.h5) v)
  asr32 (add32 a 16384#32) 15

/-- The final `b` of R209. -/
def humB (x : HumCal) (tfine : Word32) : Word32 :=
  let v := sub32 tfine 76800#32
  let b1 := asr32 (mul32 v (sext32 x.h6)) 10
  let b2 := add32 (asr32 (mul32 v (zext32 x.h3)) 11) 32768#32
  let b := add32 (asr32 (mul32 b1 b2) 10) 2097152#32
  asr32 (add32 (mul32 b (sext32 x.h2)) 8192#32) 14

/-- `x` of R209 before the clamp. -/
def humPre (x : HumCal) (tfine : Word32) (adcH : BitVec 16) : Word32 :=
  let v := mul32 (humA x tfine adcH) (humB x tfine)
  let y := asr32 v 15
  let y2 := asr32 (mul32 y y) 7
  sub32 v (asr32 (mul32 y2 (zext32 x.h1)) 4)

/-- The clamp to [0, `HCLAMP_MAX`], then the right shift by 12 (R209, R201 PH-2). -/
def humFinish (pre : Word32) : Word32 := asr32 (clamp32 pre 0#32 Config.hclampMax) 12

/-- Default body of `CompH` (R209). -/
def compHSpec (x : HumCal) (tfine : Word32) (adcH : BitVec 16) : Word32 := humFinish (humPre x tfine adcH)

/-- `CompH` of the instance: every admissible one clamps its last intermediate before the shift (R201 PH-2, R210). -/
def compH (c : Config) (x : HumCal) (tfine : Word32) (adcH : BitVec 16) : Word32 :=
  match c.compH with
  | .spec => compHSpec x tfine adcH
  | .other k => humFinish (Config.otherCompHPre k x.h1 x.h2 x.h3 x.h4 x.h5 x.h6 tfine adcH)

end Sys2Proof.Machine
end

