-- ==== Sys2Proof/Machine/Sequencer.lean ====
section
/-! DEFINITION. The sixteen steps of the RD unit (41_sequencer.md R140 to R158). -/

namespace Sys2Proof.Machine

/-- Step 0, `IDLE` (R143): nothing, but a response on `BUSRSP` is discarded. -/
def execIdle (s : State) : StepOut := .next (s.withBus { s.bus with busrsp := none })

/-! ## INIT steps -/

/-- The check of `I_ID` (R144). -/
def checkIdentity (b : List Byte) (s : State) : State :=
  if byteAt b 0 = s.cfg.idValue then setSeq 2#4 s else raiseRd opInit .identityMismatch s

/-- Step 1, `I_ID` (R144). -/
def execIId (s : State) : StepOut :=
  readTransfer s.cfg.idReg 1 opInit .identityMismatch checkIdentity s

/-- `CAL.T1 .. CAL.P9 <- DecA` (R145). -/
def storeBlockA (x : BlockA) (s : State) : State :=
  s.withRd { s.rd with cal := { s.rd.cal with
    t1 := .val x.t1, t2 := .val x.t2, t3 := .val x.t3
    p1 := .val x.p1, p2 := .val x.p2, p3 := .val x.p3, p4 := .val x.p4, p5 := .val x.p5
    p6 := .val x.p6, p7 := .val x.p7, p8 := .val x.p8, p9 := .val x.p9 } }

/-- Step 2, `I_CALA` (R145). -/
def execICala (s : State) : StepOut :=
  readTransfer s.cfg.calaReg Config.calaLen opInit .calibrationReadFailed
    (fun a t => setSeq 3#4 (storeBlockA (decA t.cfg a) t)) s

/-- `CAL.H1 <- DecB` (R146). -/
def storeBlockB (h1 : Byte) (s : State) : State :=
  s.withRd { s.rd with cal := { s.rd.cal with h1 := .val h1 } }

/-- Step 3, `I_CALB` (R146). -/
def execICalb (s : State) : StepOut :=
  readTransfer s.cfg.calbReg Config.calbLen opInit .calibrationReadFailed
    (fun b t => setSeq 4#4 (storeBlockB (decB t.cfg b) t)) s

/-- `CAL.H2 .. CAL.H6 <- DecC` (R147). -/
def storeBlockC (x : BlockC) (s : State) : State :=
  s.withRd { s.rd with cal := { s.rd.cal with
    h2 := .val x.h2, h3 := .val x.h3, h4 := .val x.h4, h5 := .val x.h5, h6 := .val x.h6 } }

/-- Step 4, `I_CALC` (R147). -/
def execICalc (s : State) : StepOut :=
  readTransfer s.cfg.calcReg Config.calcLen opInit .calibrationReadFailed
    (fun c t => setSeq 5#4 (storeBlockC (decC t.cfg c) t)) s

/-- Step 5, `I_WHUM` (R148). -/
def execIWhum (s : State) : StepOut := writeTransfer s.cfg.ctrlHumReg s.cfg.ctrlHumVal 6#4 s

/-- Step 6, `I_WMEAS` (R149). -/
def execIWmeas (s : State) : StepOut := writeTransfer s.cfg.ctrlMeasReg s.cfg.ctrlMeasVal 7#4 s

/-- Step 7, `I_WCFG` (R150). -/
def execIWcfg (s : State) : StepOut := writeTransfer s.cfg.configReg s.cfg.configVal 8#4 s

/-- Step 8, `I_DONE` (R151). -/
def execIDone (s : State) : StepOut :=
  .next (s.withRd { s.rd with dstate := .ready, rsp := Rsp.ended opInit statusOk, seq := 0#4 })

/-! ## READ steps -/

/-- Step 9, `R_DATA` (R152). -/
def execRData (s : State) : StepOut :=
  readTransfer s.cfg.dataReg Config.dataLen opRead .readFailed (fun _ t => setSeq 10#4 t) s

/-- Step 10, `R_UNPK` (R153). -/
def execRUnpk (s : State) : StepOut :=
  onRead (readCells .xbuf s.rd.xbuf 0 Config.dataLen) fun d =>
    .next (s.withRd { s.rd with
      rawP := .val (unpackP d), rawT := .val (unpackT d), rawH := .val (unpackH d), seq := 11#4 })

/-- The operands of `R_CMPT`: `T1`, `T2`, `T3`, `RAW.T`. -/
def tempOperands (s : State) : Except Fault (BitVec 16 × BitVec 16 × BitVec 16 × BitVec 20) := do
  let t1 ← s.rd.cal.t1.get (.cal 0)
  let t2 ← s.rd.cal.t2.get (.cal 1)
  let t3 ← s.rd.cal.t3.get (.cal 2)
  let adcT ← s.rd.rawT.get .rawT
  return (t1, t2, t3, adcT)

/-- Step 11, `R_CMPT` (R154). -/
def execRCmpt (s : State) : StepOut :=
  onRead (tempOperands s) fun x =>
    .next (s.withRd { s.rd with
      tfine := .val (compT s.cfg x.1 x.2.1 x.2.2.1 x.2.2.2).1
      tint := .val (compT s.cfg x.1 x.2.1 x.2.2.1 x.2.2.2).2
      seq := 12#4 })

/-- The operands of `R_CMPP`: `P1 .. P9`, `TFINE`, `RAW.P`. -/
def presOperands (s : State) : Except Fault (PresCal × Word32 × BitVec 20) := do
  let p1 ← s.rd.cal.p1.get (.cal 3)
  let p2 ← s.rd.cal.p2.get (.cal 4)
  let p3 ← s.rd.cal.p3.get (.cal 5)
  let p4 ← s.rd.cal.p4.get (.cal 6)
  let p5 ← s.rd.cal.p5.get (.cal 7)
  let p6 ← s.rd.cal.p6.get (.cal 8)
  let p7 ← s.rd.cal.p7.get (.cal 9)
  let p8 ← s.rd.cal.p8.get (.cal 10)
  let p9 ← s.rd.cal.p9.get (.cal 11)
  let tfine ← s.rd.tfine.get .tfine
  let adcP ← s.rd.rawP.get .rawP
  return (⟨p1, p2, p3, p4, p5, p6, p7, p8, p9⟩, tfine, adcP)

/-- Step 12, `R_CMPP` (R155). -/
def execRCmpp (s : State) : StepOut :=
  onRead (presOperands s) fun x =>
    .next (s.withRd { s.rd with pint := .val (compP s.cfg x.1 x.2.1 x.2.2), seq := 13#4 })

/-- The operands of `R_CMPH`: `H1 .. H6`, `TFINE`, `RAW.H`. -/
def humOperands (s : State) : Except Fault (HumCal × Word32 × BitVec 16) := do
  let h1 ← s.rd.cal.h1.get (.cal 12)
  let h2 ← s.rd.cal.h2.get (.cal 13)
  let h3 ← s.rd.cal.h3.get (.cal 14)
  let h4 ← s.rd.cal.h4.get (.cal 15)
  let h5 ← s.rd.cal.h5.get (.cal 16)
  let h6 ← s.rd.cal.h6.get (.cal 17)
  let tfine ← s.rd.tfine.get .tfine
  let adcH ← s.rd.rawH.get .rawH
  return (⟨h1, h2, h3, h4, h5, h6⟩, tfine, adcH)

/-- Step 13, `R_CMPH` (R156). -/
def execRCmph (s : State) : StepOut :=
  onRead (humOperands s) fun x =>
    .next (s.withRd { s.rd with hint := .val (compH s.cfg x.1 x.2.1 x.2.2), seq := 14#4 })

/-- The integer stage: `TINT`, `PINT`, `HINT`. -/
def integerStage (s : State) : Except Fault (Word32 × Word32 × Word32) := do
  let tint ← s.rd.tint.get .tint
  let pint ← s.rd.pint.get .pint
  let hint ← s.rd.hint.get .hint
  return (tint, pint, hint)

/-- Step 14, `R_CVT` (R157). -/
def execRCvt (s : State) : StepOut :=
  onRead (integerStage s) fun x =>
    .next (s.withRd { s.rd with
      tf := .val (cvtT s.cfg x.1), pf := .val (cvtP s.cfg x.2.1), hf := .val (cvtH s.cfg x.2.2), seq := 15#4 })

/-- The float results: `TF`, `PF`, `HF`. -/
def floatStage (s : State) : Except Fault (Word32 × Word32 × Word32) := do
  let tf ← s.rd.tf.get .tf
  let pf ← s.rd.pf.get .pf
  let hf ← s.rd.hf.get .hf
  return (tf, pf, hf)

/-- Step 15, `R_DONE` (R158): all fields in one step. -/
def execRDone (s : State) : StepOut :=
  onRead (floatStage s) fun f => onRead (integerStage s) fun x =>
    .next (s.withRd { s.rd with
      dstate := .ready
      rsp :=
        { valid := true, op := .val opRead, status := .val statusOk
          tf := .val f.1, pf := .val f.2.1, hf := .val f.2.2
          tint := .val x.1, pint := .val x.2.1, hint := .val x.2.2 }
      seq := 0#4 })

end Sys2Proof.Machine
end

