-- ==== Sys2Proof/Machine/Dispatch.lean ====
section
/-! DEFINITION. One arm per instruction of spec/opcode_table.json. -/

namespace Sys2Proof.Machine

-- The meaning of each instruction, in the order of the opcode table.
def exec (i : Instr) (s : State) : Host.Outcome State Fault Refusal :=
  match i with
  | .init => Sys2Proof.Machine.execInit s
  | .read => Sys2Proof.Machine.execRead s
  | .parse operand => Sys2Proof.Machine.execParse operand s
  | .idle => Sys2Proof.Machine.execIdle s
  | .iId => Sys2Proof.Machine.execIId s
  | .iCala => Sys2Proof.Machine.execICala s
  | .iCalb => Sys2Proof.Machine.execICalb s
  | .iCalc => Sys2Proof.Machine.execICalc s
  | .iWhum => Sys2Proof.Machine.execIWhum s
  | .iWmeas => Sys2Proof.Machine.execIWmeas s
  | .iWcfg => Sys2Proof.Machine.execIWcfg s
  | .iDone => Sys2Proof.Machine.execIDone s
  | .rData => Sys2Proof.Machine.execRData s
  | .rUnpk => Sys2Proof.Machine.execRUnpk s
  | .rCmpt => Sys2Proof.Machine.execRCmpt s
  | .rCmpp => Sys2Proof.Machine.execRCmpp s
  | .rCmph => Sys2Proof.Machine.execRCmph s
  | .rCvt => Sys2Proof.Machine.execRCvt s
  | .rDone => Sys2Proof.Machine.execRDone s
  | .pIdle => Sys2Proof.Machine.execPIdle s
  | .pPfx => Sys2Proof.Machine.execPPfx s
  | .pCopy => Sys2Proof.Machine.execPCopy s
  | .pSplit => Sys2Proof.Machine.execPSplit s
  | .pCnt => Sys2Proof.Machine.execPCnt s
  | .pScan => Sys2Proof.Machine.execPScan s
  | .pConv => Sys2Proof.Machine.execPConv s
  | .pDone => Sys2Proof.Machine.execPDone s
  | .rd dev reg len wdata timeout => Sys2Proof.Machine.execRd dev reg len wdata timeout s
  | .wr dev reg len wdata timeout => Sys2Proof.Machine.execWr dev reg len wdata timeout s

end Sys2Proof.Machine
end

