-- ==== Sys2Proof/WellFormed.lean ====
section
/-! DEFINITION. The operands an encoding admits (30_encoding.md R92, R96). -/

namespace Sys2Proof

/-- A `PARSE` operand has at most `SENT_MAX` bytes (30_encoding.md R92). -/
def wfOperand (operand : List Byte) : Bool :=
  decide (operand.length ≤ Config.sentMax)

/-- A read request asks for 1, 7, 8 or 24 bytes (30_encoding.md R96). -/
def wfReadLen (len : Byte) : Bool :=
  len == 1#8 || len == 7#8 || len == 8#8 || len == 24#8

/-- `wdata` is 0x00 in a read request (30_encoding.md R96). -/
def wfReadData (wdata : Byte) : Bool :=
  wdata == 0#8

/-- A write request writes one byte (30_encoding.md R96, 20_memory.md R63). -/
def wfWriteLen (len : Byte) : Bool :=
  len == 1#8

/-- `timeout` fits its `TW` bits (30_encoding.md R96). -/
def wfTimeout (tw timeout : Nat) : Bool :=
  decide (timeout < 2 ^ tw)

/-- Well-formed instructions of an instance with timeout width `tw`. -/
def Instr.wellFormed (tw : Nat) : Instr → Bool
  | .parse operand => wfOperand operand
  | .rd _ _ len wdata timeout => wfReadLen len && wfReadData wdata && wfTimeout tw timeout
  | .wr _ _ len _ timeout => wfWriteLen len && wfTimeout tw timeout
  | .init | .read | .idle | .iId | .iCala | .iCalb | .iCalc | .iWhum | .iWmeas | .iWcfg | .iDone => true
  | .rData | .rUnpk | .rCmpt | .rCmpp | .rCmph | .rCvt | .rDone => true
  | .pIdle | .pPfx | .pCopy | .pSplit | .pCnt | .pScan | .pConv | .pDone => true

end Sys2Proof
end

