-- ==== Sys2Proof/Decode.lean ====
section
/-! DEFINITION. Encodings and decoding (30_encoding.md): from the bits on a port or in a step register to an
instruction, and back. Decoding is total and rejects by name. -/

namespace Sys2Proof

/-- Why bits are no instruction. -/
inductive DecodeError where
  /-- An opcode the port does not accept (30_encoding.md R100); the machine answers it with status 0x81. -/
  | illegalOpcode (op : Byte)
  /-- Fewer bytes than the message has. -/
  | incomplete
  /-- A bit above the format's width is set (DESIGN CHOICE, log 28). -/
  | bitsAboveFormat
  deriving DecidableEq, Repr

/-! ## Bytes and numbers: bit 0 of byte 0 is bit 0 of the word (R8) -/

/-- The number whose bits 7:0 are the first byte, 15:8 the second, and so on. -/
def natOfBytes : List Byte → Nat
  | [] => 0
  | b :: bs => b.toNat + 256 * natOfBytes bs

/-- The `k` lowest bytes of a number, lowest first. -/
def bytesOfNat : Nat → Nat → List Byte
  | 0, _ => []
  | k + 1, n => BitVec.ofNat 8 n :: bytesOfNat k (n / 256)

/-! ## Formats CMD8 and PCMDV (R91, R92, R98, R100) -/

/-- A word on port `CMD`: all eight bits are compared (R98). -/
def decodeCmd (op : Byte) : Except DecodeError Instr :=
  if op = 0x01#8 then .ok .init
  else if op = 0x02#8 then .ok .read
  else .error (.illegalOpcode op)

/-- The framing of a `PCMD` message: opcode, `len` operand bytes, what follows the message (R92, R102). `none` while
fewer than `2 + len` bytes are there. -/
def framePcmd : List Byte → Option (Byte × List Byte × List Byte)
  | op :: len :: bytes =>
    let operand := bytes.take len.toNat
    if operand.length = len.toNat then some (op, operand, bytes.drop len.toNat) else none
  | _ => none

/-- A framed message on port `PCMD` (R98, R100). -/
def decodePcmd (op : Byte) (operand : List Byte) : Except DecodeError Instr :=
  if op = 0x03#8 then .ok (.parse operand) else .error (.illegalOpcode op)

/-! ## Formats SEQ4 and PSEQ3 (R99, 10_state.md R24, R40): every value is defined -/

/-- The step of the RD unit that a value of `SEQ` names (10_state.md R24). -/
def decodeSeq (v : BitVec 4) : Instr :=
  match v.toNat with
  | 0 => .idle
  | 1 => .iId
  | 2 => .iCala
  | 3 => .iCalb
  | 4 => .iCalc
  | 5 => .iWhum
  | 6 => .iWmeas
  | 7 => .iWcfg
  | 8 => .iDone
  | 9 => .rData
  | 10 => .rUnpk
  | 11 => .rCmpt
  | 12 => .rCmpp
  | 13 => .rCmph
  | 14 => .rCvt
  | _ => .rDone

/-- The step of the SP unit that a value of `PSEQ` names (10_state.md R40). -/
def decodePseq (v : BitVec 3) : Instr :=
  match v.toNat with
  | 0 => .pIdle
  | 1 => .pPfx
  | 2 => .pCopy
  | 3 => .pSplit
  | 4 => .pCnt
  | 5 => .pScan
  | 6 => .pConv
  | _ => .pDone

/-! ## Formats BUSREQ and BUSRSP (R96, R97) -/

/-- The bits of a request (R96). -/
def reqBits (r : BusReq) : Nat :=
  (match r.kind with | .rd => 0 | .wr => 1) + 2 * r.dev.toNat + 256 * r.reg.toNat + 65536 * r.len.toNat
    + 16777216 * r.wdata.toNat + 4294967296 * r.timeout

/-- The request with the given bits (R96); bit 0 is the kind. -/
def reqOfBits (w : Nat) : BusReq where
  kind := if w % 2 = 0 then .rd else .wr
  dev := BitVec.ofNat 7 (w / 2)
  reg := BitVec.ofNat 8 (w / 256)
  len := BitVec.ofNat 8 (w / 65536)
  wdata := BitVec.ofNat 8 (w / 16777216)
  timeout := w / 4294967296

/-- The instruction a request is to the bus collaborator. -/
def instrOfReq (r : BusReq) : Instr :=
  match r.kind with
  | .rd => .rd r.dev r.reg r.len r.wdata r.timeout
  | .wr => .wr r.dev r.reg r.len r.wdata r.timeout

/-- How many bytes hold the `32 + TW` bits of a request. -/
def reqBytes (tw : Nat) : Nat := 4 + (tw + 7) / 8

theorem bytesOfNat_length (k n : Nat) : (bytesOfNat k n).length = k := by
  induction k generalizing n with
  | zero => rfl
  | succ k ih => simp [bytesOfNat, ih]

/-- The bits of a response (R97). -/
def rspBits (r : BusRsp) : Nat :=
  (if r.ok then 1 else 0) + 2 * r.data.length + 512 * natOfBytes r.data

/-- The response with the given bits (R97): every bit pattern is accepted (R100). -/
def rspOfBits (w : Nat) : BusRsp where
  ok := w % 2 == 1
  data := bytesOfNat (w / 2 % 256) (w / 512)
  fits := by rw [bytesOfNat_length]; omega

/-! ## One decoder over bytes, and the encoder -/

/-- Decode the message of a format at the head of a byte list; what follows it is returned too. `tw` is the timeout
width of the instance. -/
def decode (tw : Nat) (f : Format) (bytes : List Byte) : Except DecodeError (Instr × List Byte) :=
  match f with
  | .cmd8 =>
    match bytes with
    | [] => .error .incomplete
    | op :: rest => (decodeCmd op).map fun i => (i, rest)
  | .pcmdv =>
    match framePcmd bytes with
    | none => .error .incomplete
    | some (op, operand, rest) => (decodePcmd op operand).map fun i => (i, rest)
  | .seq4 =>
    match bytes with
    | [] => .error .incomplete
    | b :: rest => if b.toNat < 16 then .ok (decodeSeq (b.setWidth 4), rest) else .error .bitsAboveFormat
  | .pseq3 =>
    match bytes with
    | [] => .error .incomplete
    | b :: rest => if b.toNat < 8 then .ok (decodePseq (b.setWidth 3), rest) else .error .bitsAboveFormat
  | .busreq =>
    let message := bytes.take (reqBytes tw)
    if message.length < reqBytes tw then .error .incomplete
    else if natOfBytes message < 2 ^ (32 + tw) then
      .ok (instrOfReq (reqOfBits (natOfBytes message)), bytes.drop (reqBytes tw))
    else .error .bitsAboveFormat

/-- The bytes of a well-formed instruction, from the same encodings (30_encoding.md R91, R92, R96, R99). -/
def encode (tw : Nat) : Instr → List Byte
  | .init => [0x01#8]
  | .read => [0x02#8]
  | .parse operand => 0x03#8 :: BitVec.ofNat 8 operand.length :: operand
  | .idle => [0x0#8]
  | .iId => [0x1#8]
  | .iCala => [0x2#8]
  | .iCalb => [0x3#8]
  | .iCalc => [0x4#8]
  | .iWhum => [0x5#8]
  | .iWmeas => [0x6#8]
  | .iWcfg => [0x7#8]
  | .iDone => [0x8#8]
  | .rData => [0x9#8]
  | .rUnpk => [0xA#8]
  | .rCmpt => [0xB#8]
  | .rCmpp => [0xC#8]
  | .rCmph => [0xD#8]
  | .rCvt => [0xE#8]
  | .rDone => [0xF#8]
  | .pIdle => [0x0#8]
  | .pPfx => [0x1#8]
  | .pCopy => [0x2#8]
  | .pSplit => [0x3#8]
  | .pCnt => [0x4#8]
  | .pScan => [0x5#8]
  | .pConv => [0x6#8]
  | .pDone => [0x7#8]
  | .rd dev reg len wdata timeout => bytesOfNat (reqBytes tw) (reqBits ⟨.rd, dev, reg, len, wdata, timeout⟩)
  | .wr dev reg len wdata timeout => bytesOfNat (reqBytes tw) (reqBits ⟨.wr, dev, reg, len, wdata, timeout⟩)

/-! ## The host's table words -/

/-- The format under which a bare table word is read. The rows of spec/opcode_table.json share their words (value 1 is
`INIT`, `I_ID`, `P_PFX` and `WR`), so a word alone does not say its row; this is the model's choice (DESIGN CHOICE,
log 3): widths 1 and 2 are a request's kind bit, width 3 `PSEQ3`, width 4 `SEQ4`; a word of 5 to 31 bits is a host
command if its low byte is 1, 2 or 3 and else a step of the RD unit if it is below 16; 32 bits or more are a request. -/
def tableFormat (nbits w : Nat) : Format :=
  if nbits ≤ 2 then .busreq
  else if nbits = 3 then .pseq3
  else if nbits = 4 then .seq4
  else if 32 ≤ nbits then .busreq
  else if w % 256 = 3 then .pcmdv
  else if w % 256 = 1 ∨ w % 256 = 2 then .cmd8
  else if w < 16 then .seq4
  else .cmd8

/-- The bytes of a table word, every bit above `nbits` zero, up to the longest message (257 bytes). -/
def tableBytes (nbits w : Nat) : List Byte :=
  bytesOfNat 257 (w % 2 ^ nbits)

/-- The instruction the decoder reads from a table word of `nbits` bits. -/
def decodeTableWord (nbits w : Nat) : Option Instr :=
  match decode 32 (tableFormat nbits (w % 2 ^ nbits)) (tableBytes nbits w) with
  | .ok (i, _) => some i
  | .error _ => none

end Sys2Proof
end

