-- ==== Sys2Proof/Machine/Fetch.lean ====
section
/-! DEFINITION. Where the next instruction comes from (00_scope.md R14, R15; 10_state.md R24, R40): whose turn it is,
and which word that agent's port or step register holds. -/

namespace Sys2Proof.Machine

/-- What a turn comes to: an instruction and the state it runs at, or an event that is no instruction. -/
inductive Fetched where
  /-- An instruction, and the state with its message taken off the port. -/
  | instr (i : Instr) (s : State)
  /-- An opcode that `CMD` does not accept (30_encoding.md R100). -/
  | illegalCmd (op : Byte) (s : State)
  /-- An opcode that `PCMD` does not accept (R100). -/
  | illegalPcmd (op : Byte) (s : State)
  /-- The host reads a field of `RSP`. -/
  | readRsp (f : RspField) (s : State)
  /-- The host reads a field of `PRSP`. -/
  | readPrsp (f : PrspField) (s : State)
  /-- The collaborator sends a response nobody asked for. -/
  | unasked (s : State)
  /-- `RST` is asserted. -/
  | reset (s : State)
  /-- The agent has no step: its turn changes nothing. -/
  | nothing (s : State)
  deriving DecidableEq, Repr

/-- The RD unit waits for a response (20_memory.md R80 (b), U3). -/
def rdWaits (s : State) : Bool := s.rd.buspend && s.bus.busrsp.isNone

/-- Who moves when the list of turns is empty (the interleaving is free, U20; DESIGN CHOICE, log 1): a unit that can
move, else the collaborator if it has a request and an answer, else the host if it has a message and the port is
ready, else the idle RD unit. -/
def defaultTurn (s : State) : Turn :=
  if busy s && !rdWaits s then .rd
  else if pbusy s then .sp
  else if !s.bus.inFlight.isEmpty && !s.env.answers.isEmpty then .bus
  else if cmdReady s && !s.env.cmdIn.isEmpty then .host
  else if pcmdReady s && (framePcmd s.env.pcmdIn).isSome then .hostSp
  else .rd

/-- The turn that is next. -/
def nextTurn (s : State) : Turn :=
  match s.env.turns with
  | t :: _ => t
  | [] => defaultTurn s

/-- The turn is used up. -/
def popTurn (s : State) : State := s.withEnv { s.env with turns := s.env.turns.tail }

/-- A word on `CMD` is taken only when the port is ready; otherwise it waits (00_scope.md R15, U15, log 8). -/
def fetchHost (s : State) : Fetched :=
  if cmdReady s then
    match s.env.cmdIn with
    | [] => .nothing s
    | op :: rest =>
      let t := s.withEnv { s.env with cmdIn := rest }
      match decodeCmd op with
      | .ok i => .instr i t
      | .error _ => .illegalCmd op t
  else .nothing s

/-- A message on `PCMD` is taken whole, and only when the port is ready (R15, 44_parser.md R230, log 8, 29). -/
def fetchHostSp (s : State) : Fetched :=
  if pcmdReady s then
    match framePcmd s.env.pcmdIn with
    | none => .nothing s
    | some (op, operand, rest) =>
      let t := s.withEnv { s.env with pcmdIn := rest }
      match decodePcmd op operand with
      | .ok i => .instr i t
      | .error _ => .illegalPcmd op t
  else .nothing s

/-- The collaborator's next request, the oldest it holds. -/
def fetchBus (s : State) : Fetched :=
  match s.bus.inFlight with
  | [] => .nothing s
  | r :: _ => .instr (instrOfReq r) s

/-- The fetch of a given turn. -/
def fetchTurn (t : Turn) (s : State) : Fetched :=
  match t with
  | .host => fetchHost s
  | .hostSp => fetchHostSp s
  | .readRsp f => .readRsp f s
  | .readPrsp f => .readPrsp f s
  | .rd => .instr (decodeSeq s.rd.seq) s
  | .sp => .instr (decodePseq s.sp.pseq) s
  | .bus => fetchBus s
  | .busUnasked => .unasked (popAnswer s)
  | .rst => .reset s

/-- The next turn is taken off the list and fetched. -/
def fetch (s : State) : Fetched := fetchTurn (nextTurn s) (popTurn s)

/-! ## Placing a table word where the next step fetches (log 2) -/

/-- A register that holds no value gets one; a register that holds one keeps it. -/
def Reg.orElse {α : Type} (v : α) (r : Reg α) : Reg α :=
  match r with
  | .unspec => .val v
  | .val w => .val w

/-- `CAL` with every `UNSPEC` field at zero. -/
def supplyCal (x : Cal) : Cal where
  t1 := x.t1.orElse 0
  t2 := x.t2.orElse 0
  t3 := x.t3.orElse 0
  p1 := x.p1.orElse 0
  p2 := x.p2.orElse 0
  p3 := x.p3.orElse 0
  p4 := x.p4.orElse 0
  p5 := x.p5.orElse 0
  p6 := x.p6.orElse 0
  p7 := x.p7.orElse 0
  p8 := x.p8.orElse 0
  p9 := x.p9.orElse 0
  h1 := x.h1.orElse 0
  h2 := x.h2.orElse 0
  h3 := x.h3.orElse 0
  h4 := x.h4.orElse 0
  h5 := x.h5.orElse 0
  h6 := x.h6.orElse 0

/-- The RD unit about to take step `v` of a command: `SEQ` and `DSTATE` as 10_state.md R24 ties them, and a zero in
each register that an earlier step of the command would have written and that holds no value. -/
def supplyRd (v : BitVec 4) (r : RdUnit) : RdUnit :=
  if v = 0#4 then { r with seq := v }
  else
    { r with
      seq := v
      dstate := if v.toNat ≤ 8 then .initializing else .reading
      xbuf := r.xbuf.map (Reg.orElse 0)
      tfine := r.tfine.orElse 0
      rawP := r.rawP.orElse 0
      rawT := r.rawT.orElse 0
      rawH := r.rawH.orElse 0
      tint := r.tint.orElse 0
      pint := r.pint.orElse 0
      hint := r.hint.orElse 0
      tf := r.tf.orElse 0
      pf := r.pf.orElse 0
      hf := r.hf.orElse 0
      cal := supplyCal r.cal }

/-- The SP unit about to take step `v` of a `PARSE`, in the same way (the empty sentence, no fields). -/
def supplySp (v : BitVec 3) (p : SpUnit) : SpUnit :=
  if v = 0#3 then { p with pseq := v }
  else
    { p with
      pseq := v
      sent := p.sent.orElse []
      wlen := p.wlen.orElse 0
      nf := p.nf.orElse 0
      fs := p.fs.map (Reg.orElse 0)
      fl := p.fl.map (Reg.orElse 0)
      latq := p.latq.orElse ⟨0, 0⟩
      lonq := p.lonq.orElse ⟨0, 0⟩
      hlat := p.hlat.orElse none
      hlon := p.hlon.orElse none
      qual := p.qual.orElse 0
      sats := p.sats.orElse 0
      lat := p.lat.orElse 0
      lon := p.lon.orElse 0 }

/-- `s` with the message `bytes` of format `f` standing where the next step fetches it, that agent's turn first. -/
def placeMessage (f : Format) (bytes : List Byte) (s : State) : State :=
  match f with
  | .cmd8 =>
    (s.withRd { s.rd with seq := 0#4 }).withEnv
      { s.env with turns := .host :: s.env.turns, cmdIn := bytes.take 1 ++ s.env.cmdIn }
  | .pcmdv =>
    (s.withSp { s.sp with pseq := 0#3 }).withEnv
      { s.env with turns := .hostSp :: s.env.turns, pcmdIn := bytes.take (2 + (byteAt bytes 1).toNat) ++ s.env.pcmdIn }
  | .seq4 =>
    (s.withRd (supplyRd ((byteAt bytes 0).setWidth 4) s.rd)).withEnv { s.env with turns := .rd :: s.env.turns }
  | .pseq3 =>
    (s.withSp (supplySp ((byteAt bytes 0).setWidth 3) s.sp)).withEnv { s.env with turns := .sp :: s.env.turns }
  | .busreq =>
    (s.withBus { s.bus with inFlight := reqOfBits (natOfBytes (bytes.take (reqBytes 32))) :: s.bus.inFlight }).withEnv
      { s.env with turns := .bus :: s.env.turns }

end Sys2Proof.Machine
end

