-- ==== Sys2Proof/Machine/Step.lean ====
section
/-! DEFINITION. One step of the machine: the next turn's instruction is fetched and run, or its event takes place. -/

namespace Sys2Proof.Machine

/-- One step (00_scope.md R6, R14). Every outcome of an instruction is that of `exec`. -/
def step (s : State) : Host.Outcome State Fault Refusal :=
  match fetch s with
  | .instr i t => exec i t
  | .illegalCmd op t => takeIllegalCmd op t
  | .illegalPcmd op t => takeIllegalPcmd op t
  | .readRsp f t => hostReadsRsp f t
  | .readPrsp f t => hostReadsPrsp f t
  | .unasked t => deliverUnasked t
  | .reset t => .next (assertReset t)
  | .nothing t => .next t

/-- `s` with the table word `w` standing where `step` fetches its next instruction (log 2, 3). -/
def State.withFetchWord (s : State) (nbits w : Nat) : State :=
  placeMessage (tableFormat nbits (w % 2 ^ nbits)) (tableBytes nbits w) s

end Sys2Proof.Machine
end

