-- ==== Sys2Proof/Safety.lean ====
section
/-! DEFINITION. What a safe state is: the invariants the spec derives (10_state.md R24, R37, R42; 20_memory.md R76, R82;
40_commands.md R120), in the terms the obligations use. -/

namespace Sys2Proof.Machine

/-- A register holds a value. -/
def Reg.isVal {α : Type} (r : Reg α) : Bool :=
  match r with
  | .unspec => false
  | .val _ => true

/-- The fields `I_CALA` writes hold values. -/
def calHasA (c : Cal) : Bool :=
  c.t1.isVal && c.t2.isVal && c.t3.isVal && c.p1.isVal && c.p2.isVal && c.p3.isVal && c.p4.isVal && c.p5.isVal
    && c.p6.isVal && c.p7.isVal && c.p8.isVal && c.p9.isVal

/-- The fields `I_CALC` writes hold values. -/
def calHasC (c : Cal) : Bool := c.h2.isVal && c.h3.isVal && c.h4.isVal && c.h5.isVal && c.h6.isVal

/-- Every field of `CAL` holds a value (R37). -/
def calValid (c : Cal) : Bool := calHasA c && c.h1.isVal && calHasC c

/-- The request of each transfer step (20_memory.md R70); the other steps have none. -/
def stepRequest (c : Config) (v : BitVec 4) : Option BusReq :=
  match v.toNat with
  | 1 => some (readReq c c.idReg 1)
  | 2 => some (readReq c c.calaReg 24)
  | 3 => some (readReq c c.calbReg 1)
  | 4 => some (readReq c c.calcReg 7)
  | 5 => some (writeReq c c.ctrlHumReg c.ctrlHumVal)
  | 6 => some (writeReq c c.ctrlMeasReg c.ctrlMeasVal)
  | 7 => some (writeReq c c.configReg c.configVal)
  | 9 => some (readReq c c.dataReg 8)
  | _ => none

/-- A response register of the RD unit has the shape of R33 and R93: cleared, or an ending with its payload present
exactly on success of a `READ`. -/
def rspShape (r : Rsp) : Prop :=
  r = Rsp.cleared ∨ (∃ op status, r = Rsp.ended op status ∧ (op = opRead → status ≠ statusOk)) ∨
    ∃ tf pf hf tint pint hint, r =
      { valid := true, op := .val opRead, status := .val statusOk, tf := .val tf, pf := .val pf, hf := .val hf
        tint := .val tint, pint := .val pint, hint := .val hint }

/-- The same of `PRSP` (R44, R94). -/
def prspShape (r : Prsp) : Prop :=
  r = Prsp.cleared ∨ (∃ op status, r = Prsp.ended op status ∧ status ≠ statusOk) ∨
    ∃ lat lon qual sats, r =
      { valid := true, op := .val opParse, status := .val statusOk, lat := .val lat, lon := .val lon
        qual := .val qual, sats := .val sats }

/-- The invariants of the RD unit and its bus side. -/
structure RdInv (s : State) : Prop where
  /-- `SEQ in 1..8 <-> DSTATE = 1` (R24). -/
  initializing : s.rd.dstate = .initializing ↔ 1 ≤ s.rd.seq.toNat ∧ s.rd.seq.toNat ≤ 8
  /-- `SEQ in 9..15 <-> DSTATE = 3` (R24). -/
  reading : s.rd.dstate = .reading ↔ 9 ≤ s.rd.seq.toNat
  /-- `XBUF` has 24 bytes (R27). -/
  xbufLength : s.rd.xbuf.length = 24
  /-- An outstanding request is that of the current step (R25, R142). -/
  pending : s.rd.buspend = true → ∃ q, stepRequest s.cfg s.rd.seq = some q ∧ s.rd.busreqR = .val q
  /-- A response on the port belongs to an outstanding request and nothing else is in flight (R15, R80). -/
  port : s.bus.busrsp ≠ none → s.rd.buspend = true ∧ s.bus.inFlight = []
  /-- An unanswered request is the newest one the collaborator holds (R76). -/
  held : s.rd.buspend = true → s.bus.busrsp = none →
    ∃ older q, s.bus.inFlight = older ++ [q] ∧ s.rd.busreqR = .val q
  /-- No request in flight reads past offset 0xFF (R65). -/
  fits : ∀ q ∈ s.bus.inFlight, fitsSpace q.reg q.len = true
  /-- `CAL` is valid in `READY` (R37). -/
  calReady : s.rd.dstate = .ready → calValid s.rd.cal = true
  /-- Block A is decoded after step 2 (R145). -/
  calA : 3 ≤ s.rd.seq.toNat → calHasA s.rd.cal = true
  /-- Block B is decoded after step 3 (R146). -/
  calB : 4 ≤ s.rd.seq.toNat → s.rd.cal.h1.isVal = true
  /-- Block C is decoded after step 4 (R147). -/
  calC : 5 ≤ s.rd.seq.toNat → calHasC s.rd.cal = true
  /-- The burst is in `XBUF` at step 10 (R152). -/
  burst : s.rd.seq.toNat = 10 → ∀ c ∈ s.rd.xbuf.take 8, c.isVal = true
  /-- The sample is unpacked after step 10 (R153). -/
  raw : 11 ≤ s.rd.seq.toNat → s.rd.rawP.isVal = true ∧ s.rd.rawT.isVal = true ∧ s.rd.rawH.isVal = true
  /-- `TFINE` is written before it is read (R28, R310). -/
  temp : 12 ≤ s.rd.seq.toNat → s.rd.tfine.isVal = true ∧ s.rd.tint.isVal = true
  pres : 13 ≤ s.rd.seq.toNat → s.rd.pint.isVal = true
  hum : 14 ≤ s.rd.seq.toNat → s.rd.hint.isVal = true
  float : 15 ≤ s.rd.seq.toNat → s.rd.tf.isVal = true ∧ s.rd.pf.isVal = true ∧ s.rd.hf.isVal = true
  /-- While a command runs there is no response (R33). -/
  rspBusy : s.rd.seq ≠ 0#4 → s.rd.rsp = Rsp.cleared
  rspForm : rspShape s.rd.rsp
  /-- The sensor's register space keeps its canonical form. -/
  sensor : Memory.wf s.bus.sensor.regs

/-- The kept text of a parse in progress, in a working buffer of `cap` bytes: `WBUF[0..WLEN]` and its terminator
(10_state.md R42). -/
def holdsText (cap : Nat) (p : SpUnit) (t : List Byte) : Prop :=
  p.wlen = .val t.length ∧ t.length ≤ cap - 1 ∧ 0x00#8 ∉ t ∧
    p.wbuf.take (t.length + 1) = (t ++ [0x00#8]).map Reg.val

/-- The stored fields of a text lie inside it (20_memory.md R82). -/
def holdsFields (p : SpUnit) (t : List Byte) (n : Nat) : Prop :=
  p.nf = .val n ∧ ∀ j < 8, j < n → ∃ a b, regAt p.fs j = .val a ∧ regAt p.fl j = .val b ∧ a + b ≤ t.length

/-- The invariants of the SP unit. -/
structure SpInv (s : State) : Prop where
  /-- The capacity is admitted (92_eei_decisions.md D23), and the buffer has it (R42). -/
  capacity : 8 ≤ s.cfg.bufCap
  wbufLength : s.sp.wbuf.length = s.cfg.bufCap
  fsLength : s.sp.fs.length = 8
  flLength : s.sp.fl.length = 8
  /-- The latched sentence (R41, R81). -/
  sentence : 1 ≤ s.sp.pseq.toNat →
    ∃ t, s.sp.sent = .val t ∧ t.length ≤ Config.sentMax ∧ 0x00#8 ∉ t
  /-- The copied text, the split fields and their count (R42, R235, R236). -/
  text : 3 ≤ s.sp.pseq.toNat → ∃ t, holdsText s.cfg.bufCap s.sp t ∧
    (4 ≤ s.sp.pseq.toNat → ∃ n, holdsFields s.sp t n ∧ (5 ≤ s.sp.pseq.toNat → Config.nfieldMin ≤ n))
  scanned : 6 ≤ s.sp.pseq.toNat → s.sp.latq.isVal = true ∧ s.sp.lonq.isVal = true ∧ s.sp.hlat.isVal = true ∧
    s.sp.hlon.isVal = true ∧ s.sp.qual.isVal = true ∧ s.sp.sats.isVal = true
  converted : 7 ≤ s.sp.pseq.toNat → s.sp.lat.isVal = true ∧ s.sp.lon.isVal = true
  /-- While a `PARSE` runs there is no response (R44). -/
  prspBusy : s.sp.pseq ≠ 0#3 → s.sp.prsp = Prsp.cleared
  prspForm : prspShape s.sp.prsp

/-- The invariant of the machine. -/
structure Inv (s : State) : Prop where
  rd : RdInv s
  sp : SpInv s

/-- A turn in which the host reads no response field: only such a read can be a host error (60_exceptions.md R284). -/
def Turn.isHostRead : Turn → Bool
  | .readRsp _ | .readPrsp _ => true
  | .host | .hostSp | .rd | .sp | .bus | .busUnasked | .rst => false

end Sys2Proof.Machine
end

