-- ==== Sys2Proof/Certificates/Slice0/Obligations.lean ====
section
/-! DEFINITION. The statements for the provers. A statement about an instruction's effect gives the whole next state
as an update of the old one, so it is its own frame: what the update does not name is unchanged. -/

/-! ## The states the rules give, written out -/

namespace Sys2Proof.Expect
open Sys2Proof.Machine

/-- The request `{kind = RD, dev = DEV_ADDR, reg, len, wdata = 0, timeout = TIMEOUT}` (20_memory.md R62). -/
def asksRead (c : Config) (reg len : Byte) : BusReq :=
  { kind := .rd, dev := c.devAddr, reg := reg, len := len, wdata := 0x00#8, timeout := c.timeout }

/-- The request `{kind = WR, dev = DEV_ADDR, reg, len = 1, wdata = v, timeout = TIMEOUT}` (20_memory.md R63). -/
def asksWrite (c : Config) (reg v : Byte) : BusReq :=
  { kind := .wr, dev := c.devAddr, reg := reg, len := 0x01#8, wdata := v, timeout := c.timeout }

/-- After an issue half (41_sequencer.md R142): the request is on its way and recorded, `BUSPEND = 1`. -/
def issued (q : BusReq) (s : State) : State :=
  { s with
    rd := { s.rd with busreqR := .val q, buspend := true }
    bus := { s.bus with inFlight := s.bus.inFlight ++ [q] } }

/-- After the completion half of a read that went well: `XBUF[0..n] <- data`, `XLEN <- n`, `BUSPEND <- 0`, `SEQ`. -/
def gotBytes (data : List Byte) (seq : BitVec 4) (s : State) : State :=
  { s with
    rd := { s.rd with
      buspend := false
      xbuf := data.map Reg.val ++ s.rd.xbuf.drop data.length
      xlen := .val (BitVec.ofNat 5 data.length)
      seq := seq }
    bus := { s.bus with busrsp := none } }

/-- A response register without payload: `{VALID = 1, OP, STATUS}`, every other field `UNSPEC` (10_state.md R33). -/
def answer (op status : Byte) : Rsp :=
  { valid := true, op := .val op, status := .val status, tf := .unspec, pf := .unspec, hf := .unspec
    tint := .unspec, pint := .unspec, hint := .unspec }

/-- `RSP` with `VALID = 0` and every other field `UNSPEC`. -/
def noAnswer : Rsp :=
  { valid := false, op := .unspec, status := .unspec, tf := .unspec, pf := .unspec, hf := .unspec
    tint := .unspec, pint := .unspec, hint := .unspec }

/-- `PRSP = {VALID = 1, OP, STATUS}` without payload (10_state.md R44). -/
def answerP (op status : Byte) : Prsp :=
  { valid := true, op := .val op, status := .val status, lat := .unspec, lon := .unspec, qual := .unspec
    sats := .unspec }

/-- `PRSP` with `VALID = 0` and every other field `UNSPEC`. -/
def noAnswerP : Prsp :=
  { valid := false, op := .unspec, status := .unspec, lat := .unspec, lon := .unspec, qual := .unspec
    sats := .unspec }

/-- The calibration file with no value in it. -/
def noCal : Cal :=
  { t1 := .unspec, t2 := .unspec, t3 := .unspec, p1 := .unspec, p2 := .unspec, p3 := .unspec, p4 := .unspec
    p5 := .unspec, p6 := .unspec, p7 := .unspec, p8 := .unspec, p9 := .unspec, h1 := .unspec, h2 := .unspec
    h3 := .unspec, h4 := .unspec, h5 := .unspec, h6 := .unspec }

/-- The calibration file that decoded blocks and `H1` fill. -/
def fullCal (a : BlockA) (h1 : Byte) (b : BlockC) : Cal :=
  { t1 := .val a.t1, t2 := .val a.t2, t3 := .val a.t3, p1 := .val a.p1, p2 := .val a.p2, p3 := .val a.p3
    p4 := .val a.p4, p5 := .val a.p5, p6 := .val a.p6, p7 := .val a.p7, p8 := .val a.p8, p9 := .val a.p9
    h1 := .val h1, h2 := .val b.h2, h3 := .val b.h3, h4 := .val b.h4, h5 := .val b.h5, h6 := .val b.h6 }

/-- A failed `INIT` step with its response taken (60_exceptions.md R279, R280). -/
def initFailed (code : Byte) (s : State) : State :=
  { s with
    rd := { s.rd with
      buspend := false
      rsp := answer 0x01#8 code
      dstate := .uninit
      cal := noCal
      xbuf := List.replicate 24 .unspec
      xlen := .unspec
      seq := 0#4 }
    bus := { s.bus with busrsp := none } }

/-- A failed `READ` with its response taken (60_exceptions.md R279, R280). -/
def readFailed (s : State) : State :=
  { s with
    rd := { s.rd with buspend := false, rsp := answer 0x02#8 0x04#8, dstate := .ready, seq := 0#4 }
    bus := { s.bus with busrsp := none } }

/-- A failed `PARSE` (60_exceptions.md R279, R280; log 15 says which registers R279 means). -/
def parseFailed (code : Byte) (s : State) : State :=
  { s with
    sp := { s.sp with
      prsp := answerP 0x03#8 code
      nf := .unspec, fs := List.replicate 8 .unspec, fl := List.replicate 8 .unspec
      latq := .unspec, lonq := .unspec, hlat := .unspec, hlon := .unspec
      qual := .unspec, sats := .unspec, lat := .unspec, lon := .unspec
      pseq := 0#3 } }

/-- The registers of a step among which one without a value is sought, each with whether it holds one. -/
def operandsOf (s : State) : Instr → List (RegName × Bool)
  | .rCmpt => [(.cal 0, s.rd.cal.t1.isVal), (.cal 1, s.rd.cal.t2.isVal), (.cal 2, s.rd.cal.t3.isVal),
      (.rawT, s.rd.rawT.isVal)]
  | .rCmpp => [(.cal 3, s.rd.cal.p1.isVal), (.cal 4, s.rd.cal.p2.isVal), (.cal 5, s.rd.cal.p3.isVal),
      (.cal 6, s.rd.cal.p4.isVal), (.cal 7, s.rd.cal.p5.isVal), (.cal 8, s.rd.cal.p6.isVal),
      (.cal 9, s.rd.cal.p7.isVal), (.cal 10, s.rd.cal.p8.isVal), (.cal 11, s.rd.cal.p9.isVal),
      (.tfine, s.rd.tfine.isVal), (.rawP, s.rd.rawP.isVal)]
  | .rCmph => [(.cal 12, s.rd.cal.h1.isVal), (.cal 13, s.rd.cal.h2.isVal), (.cal 14, s.rd.cal.h3.isVal),
      (.cal 15, s.rd.cal.h4.isVal), (.cal 16, s.rd.cal.h5.isVal), (.cal 17, s.rd.cal.h6.isVal),
      (.tfine, s.rd.tfine.isVal), (.rawH, s.rd.rawH.isVal)]
  | .rCvt => [(.tint, s.rd.tint.isVal), (.pint, s.rd.pint.isVal), (.hint, s.rd.hint.isVal)]
  | .rDone => [(.tf, s.rd.tf.isVal), (.pf, s.rd.pf.isVal), (.hf, s.rd.hf.isVal), (.tint, s.rd.tint.isVal),
      (.pint, s.rd.pint.isVal), (.hint, s.rd.hint.isVal)]
  | .pPfx => [(.sent, s.sp.sent.isVal)]
  | .pCopy => [(.sent, s.sp.sent.isVal)]
  | .pSplit => [(.wlen, s.sp.wlen.isVal)]
  | .pCnt => [(.nf, s.sp.nf.isVal)]
  | .pConv => [(.latq, s.sp.latq.isVal), (.hlat, s.sp.hlat.isVal), (.lonq, s.sp.lonq.isVal),
      (.hlon, s.sp.hlon.isVal)]
  | .pDone => [(.lat, s.sp.lat.isVal), (.lon, s.sp.lon.isVal), (.qual, s.sp.qual.isVal), (.sats, s.sp.sats.isVal)]
  | .init | .read | .parse _ | .idle | .iId | .iCala | .iCalb | .iCalc | .iWhum | .iWmeas | .iWcfg | .iDone => []
  | .rData | .rUnpk | .pIdle | .pScan | .rd .. | .wr .. => []

/-- Step `i` reads register `n`, and `n` holds no value at `s`: a register of `operandsOf`, a byte of the burst in
`XBUF`, a byte of the kept text in `WBUF`, or the place or a byte of one of the fields 2 to 7. -/
def Lacks (s : State) (i : Instr) (n : RegName) : Prop :=
  (n, false) ∈ operandsOf s i ∨
  (i = .rUnpk ∧ n = .xbuf ∧ ∃ k < 8, regAt s.rd.xbuf k = .unspec) ∨
  (i = .pSplit ∧ n = .wbuf ∧ ∃ len k, s.sp.wlen = .val len ∧ k < len ∧ regAt s.sp.wbuf k = .unspec) ∨
  (i = .pScan ∧ ∃ j, 2 ≤ j ∧ j ≤ 7 ∧
    (n = .fs j ∧ regAt s.sp.fs j = .unspec ∨ n = .fl j ∧ regAt s.sp.fl j = .unspec ∨
      n = .wbuf ∧ ∃ a len k, regAt s.sp.fs j = .val a ∧ regAt s.sp.fl j = .val len ∧ k < len ∧
        regAt s.sp.wbuf (a + k) = .unspec))

/-- The turn of this step is used up; everything else is as before. -/
def turnUsed (s : State) : State := { s with env := { s.env with turns := s.env.turns.tail } }

/-- The text a `PARSE` operand carries: the bytes before its first 0x00, or all of it (20_memory.md R81). -/
def IsSentenceOf (text operand : List Byte) : Prop :=
  0x00#8 ∉ text ∧ (operand = text ∨ ∃ more, operand = text ++ 0x00#8 :: more)

/-- The rational value of a decimal. -/
def rat (q : Decimal) : ℚ := (q.mant : ℚ) / 10 ^ q.scale

/-- The value of a magnitude pattern below 0x7F800000 as 00_scope.md R12 gives it. -/
def magnitude (m : Nat) : ℚ :=
  if m / 2 ^ 23 = 0 then (2 : ℚ) ^ (-126 : Int) * ((m % 2 ^ 23 : Nat) / 2 ^ 23)
  else (2 : ℚ) ^ ((m / 2 ^ 23 : Nat) - 127 : Int) * (1 + (m % 2 ^ 23 : Nat) / 2 ^ 23)

/-- A digit character. -/
def IsDigit (b : Byte) : Prop := 0x30 ≤ b.toNat ∧ b.toNat ≤ 0x39

end Sys2Proof.Expect

section
open Sys2Proof Sys2Proof.Machine Sys2Proof.Expect

/-! ## Encodings -/

/-- 30_encoding.md R91, R92, R96, R99: the encoding of a well-formed instruction, whatever follows it, decodes to that
instruction and leaves what follows. -/
def Obligations.DecodeEncodeRoundTrip : Prop :=
  ∀ (tw : Nat) (i : Instr) (rest : List Byte), i.wellFormed tw = true →
    decode tw i.format (encode tw i ++ rest) = .ok (i, rest)

/-- A sanity statement: words written out from the spec's encodings (95_test_vectors.md V-E1 to V-E4, V-E6, V-E7,
V-E10, V-E13; the step numbers of 10_state.md R24, R40) decode to their instructions. -/
def Obligations.SpecWordsDecode : Prop :=
  decode 32 .cmd8 [0x01#8] = .ok (.init, []) ∧
  decode 32 .cmd8 [0x02#8] = .ok (.read, []) ∧
  decode 32 .pcmdv [0x03#8, 0x07#8, 0x24#8, 0x47#8, 0x50#8, 0x47#8, 0x47#8, 0x41#8, 0x2C#8] =
    .ok (.parse [0x24#8, 0x47#8, 0x50#8, 0x47#8, 0x47#8, 0x41#8, 0x2C#8], []) ∧
  decode 32 .pcmdv [0x03#8, 0x00#8] = .ok (.parse [], []) ∧
  decode 32 .seq4 [0x0C#8] = .ok (.rCmpp, []) ∧
  decode 32 .pseq3 [0x05#8] = .ok (.pScan, []) ∧
  decode 0 .busreq [0xEC#8, 0xD0#8, 0x01#8, 0x00#8] = .ok (.rd 0x76#7 0xD0#8 0x01#8 0x00#8 0, []) ∧
  decode 0 .busreq [0xEC#8, 0x88#8, 0x18#8, 0x00#8] = .ok (.rd 0x76#7 0x88#8 0x18#8 0x00#8 0, []) ∧
  decode 0 .busreq [0xED#8, 0xF2#8, 0x01#8, 0x01#8] = .ok (.wr 0x76#7 0xF2#8 0x01#8 0x01#8 0, []) ∧
  decode 0 .busreq [0xEC#8, 0xF7#8, 0x08#8, 0x00#8] = .ok (.rd 0x76#7 0xF7#8 0x08#8 0x00#8 0, [])

/-- 30_encoding.md R98: which opcode each port accepts, all eight bits compared, and no other command. -/
def Obligations.OpcodeMap : Prop :=
  (∀ op : Byte, decodeCmd op = .ok .init ↔ op = 0x01#8) ∧
  (∀ op : Byte, decodeCmd op = .ok .read ↔ op = 0x02#8) ∧
  (∀ (op : Byte) (i : Instr), decodeCmd op = .ok i → i = .init ∨ i = .read) ∧
  (∀ (op : Byte) (operand : List Byte) (i : Instr),
    decodePcmd op operand = .ok i ↔ op = 0x03#8 ∧ i = .parse operand)

/-! ## Taking commands -/

/-- 40_commands.md R120: a word on `CMD` at a host turn. While `SEQ != 0` it is not taken; at `SEQ = 0` it is taken and
exactly one of the four cases follows. The premise on `DSTATE` is what 10_state.md R24 says of `SEQ = 0`. -/
def Obligations.CommandAcceptance : Prop :=
  ∀ (s : State) (op : Byte) (rest : List Byte), nextTurn s = .host → s.env.cmdIn = op :: rest →
    (s.rd.seq ≠ 0#4 → step s = .next (turnUsed s)) ∧
    (s.rd.seq = 0#4 → s.rd.dstate = .uninit ∨ s.rd.dstate = .ready →
      step s = .next
        (let t : State :=
          { s with
            rd := { s.rd with rsp := noAnswer }
            env := { s.env with turns := s.env.turns.tail, cmdIn := rest } }
        if op ≠ 0x01#8 ∧ op ≠ 0x02#8 then { t with rd := { t.rd with rsp := answer op 0x81#8 } }
        else if (op = 0x01#8 ∧ s.rd.dstate = .ready) ∨ (op = 0x02#8 ∧ s.rd.dstate ≠ .ready) then
          { t with rd := { t.rd with rsp := answer op 0x80#8 } }
        else if op = 0x01#8 then { t with rd := { t.rd with dstate := .initializing, seq := 1#4 } }
        else { t with rd := { t.rd with dstate := .reading, seq := 9#4 } }))

/-- 44_parser.md R230: a message on `PCMD` at a turn of the host. While `PSEQ != 0` it is not taken and the sentence
stays; at `PSEQ = 0` it is taken whole, whatever the RD unit does. -/
def Obligations.SentenceAcceptance : Prop :=
  ∀ (s : State) (op len : Byte) (operand rest text : List Byte), nextTurn s = .hostSp →
    s.env.pcmdIn = op :: len :: (operand ++ rest) → operand.length = len.toNat → IsSentenceOf text operand →
    (s.sp.pseq ≠ 0#3 → step s = .next (turnUsed s)) ∧
    (s.sp.pseq = 0#3 →
      step s = .next
        (let t : State :=
          { s with
            sp := { s.sp with prsp := noAnswerP }
            env := { s.env with turns := s.env.turns.tail, pcmdIn := rest } }
        if op ≠ 0x03#8 then { t with sp := { t.sp with prsp := answerP op 0x81#8 } }
        else { t with sp := { t.sp with sent := .val text, pseq := 1#3 } }))

/-- 40_commands.md R125 with R121, R122: what `INIT` and `READ` do when their word is taken: they start, or they are
refused and nothing but the response changes. -/
def Obligations.InitAndReadTaken : Prop :=
  ∀ s : State, s.rd.seq = 0#4 →
    (s.rd.dstate = .uninit →
      exec .init s = .next { s with rd := { s.rd with rsp := noAnswer, dstate := .initializing, seq := 1#4 } }) ∧
    (s.rd.dstate = .ready →
      exec .init s = .next { s with rd := { s.rd with rsp := answer 0x01#8 0x80#8 } }) ∧
    (s.rd.dstate = .ready →
      exec .read s = .next { s with rd := { s.rd with rsp := noAnswer, dstate := .reading, seq := 9#4 } }) ∧
    (s.rd.dstate ≠ .ready →
      exec .read s = .next { s with rd := { s.rd with rsp := answer 0x02#8 0x80#8 } })

/-- 20_memory.md R81, 40_commands.md R123: what `PARSE` does when its message is taken. -/
def Obligations.ParseTaken : Prop :=
  ∀ (s : State) (operand text : List Byte), s.sp.pseq = 0#3 → IsSentenceOf text operand →
    exec (.parse operand) s =
      .next { s with sp := { s.sp with prsp := noAnswerP, sent := .val text, pseq := 1#3 } }

/-! ## The steps of INIT -/

/-- 10_state.md R25, 41_sequencer.md R142: every transfer step issues its request of 20_memory.md R70 when nothing is
outstanding, does nothing while the response is awaited, and with the response there takes it, issues nothing, and
goes on to the next step or to idle. -/
def Obligations.TransferHalves : Prop :=
  ∀ (s : State) (q : BusReq), stepRequest s.cfg s.rd.seq = some q → q.reg.toNat + q.len.toNat ≤ 256 →
    (s.rd.buspend = false → exec (decodeSeq s.rd.seq) s = .next (issued q s)) ∧
    (s.rd.buspend = true → s.bus.busrsp = none → exec (decodeSeq s.rd.seq) s = .next s) ∧
    (∀ r, s.rd.buspend = true → s.bus.busrsp = some r →
      ∃ t, exec (decodeSeq s.rd.seq) s = .next t ∧ t.rd.buspend = false ∧ t.rd.busreqR = s.rd.busreqR ∧
        t.bus = { s.bus with busrsp := none } ∧ t.sp = s.sp ∧ t.env = s.env ∧ t.cfg = s.cfg ∧
        (t.rd.seq = s.rd.seq + 1#4 ∧ t.rd.rsp = s.rd.rsp ∨ t.rd.seq = 0#4 ∧ t.rd.rsp.valid = true))

/-- 41_sequencer.md R144, step `I_ID`: its request, and its completion. -/
def Obligations.IdentityStep : Prop :=
  ∀ s : State,
    (s.rd.buspend = false → exec .iId s = .next (issued (asksRead s.cfg s.cfg.idReg 0x01#8) s)) ∧
    (∀ r, s.rd.buspend = true → s.bus.busrsp = some r →
      exec .iId s =
        .next (if r.ok = true ∧ r.data = [s.cfg.idValue] then gotBytes r.data 2#4 s else initFailed 0x01#8 s))

/-- 41_sequencer.md R145, step `I_CALA`: its request, and its completion with block A decoded. A parameter set whose
block runs past offset 0xFF is not admitted (20_memory.md R65, U5); that it is the issue half that refuses it, as
`burstPastEnd`, is the model's reading (log 7). -/
def Obligations.BlockAStep : Prop :=
  ∀ s : State,
    (s.rd.buspend = false →
      exec .iCala s =
        if s.cfg.calaReg.toNat + 24 ≤ 256 then .next (issued (asksRead s.cfg s.cfg.calaReg 0x18#8) s)
        else .refused .burstPastEnd) ∧
    (∀ r, s.rd.buspend = true → s.bus.busrsp = some r →
      exec .iCala s =
        .next
          (if r.ok = true ∧ r.data.length = 24 then
            (let t := gotBytes r.data 3#4 s
            let a := decA s.cfg r.data
            { t with rd := { t.rd with cal := { s.rd.cal with
              t1 := .val a.t1, t2 := .val a.t2, t3 := .val a.t3, p1 := .val a.p1, p2 := .val a.p2
              p3 := .val a.p3, p4 := .val a.p4, p5 := .val a.p5, p6 := .val a.p6, p7 := .val a.p7
              p8 := .val a.p8, p9 := .val a.p9 } } })
          else initFailed 0x02#8 s))

/-- 41_sequencer.md R146, step `I_CALB`: its request, and its completion with `H1` decoded. -/
def Obligations.BlockBStep : Prop :=
  ∀ s : State,
    (s.rd.buspend = false → exec .iCalb s = .next (issued (asksRead s.cfg s.cfg.calbReg 0x01#8) s)) ∧
    (∀ r, s.rd.buspend = true → s.bus.busrsp = some r →
      exec .iCalb s =
        .next
          (if r.ok = true ∧ r.data.length = 1 then
            (let t := gotBytes r.data 4#4 s
            { t with rd := { t.rd with cal := { s.rd.cal with h1 := .val (decB s.cfg r.data) } } })
          else initFailed 0x02#8 s))

/-- 41_sequencer.md R147, step `I_CALC`: its request, and its completion with block C decoded. A parameter set whose
block runs past offset 0xFF is not admitted (20_memory.md R65, U5); that it is the issue half that refuses it, as
`burstPastEnd`, is the model's reading (log 7). -/
def Obligations.BlockCStep : Prop :=
  ∀ s : State,
    (s.rd.buspend = false →
      exec .iCalc s =
        if s.cfg.calcReg.toNat + 7 ≤ 256 then .next (issued (asksRead s.cfg s.cfg.calcReg 0x07#8) s)
        else .refused .burstPastEnd) ∧
    (∀ r, s.rd.buspend = true → s.bus.busrsp = some r →
      exec .iCalc s =
        .next
          (if r.ok = true ∧ r.data.length = 7 then
            (let t := gotBytes r.data 5#4 s
            let b := decC s.cfg r.data
            { t with rd := { t.rd with cal := { s.rd.cal with
              h2 := .val b.h2, h3 := .val b.h3, h4 := .val b.h4, h5 := .val b.h5, h6 := .val b.h6 } } })
          else initFailed 0x02#8 s))

/-- 41_sequencer.md R148 to R150, steps `I_WHUM`, `I_WMEAS`, `I_WCFG`: each writes its one byte, goes on where the
write is reported done, and ends `INIT` with `ConfigWriteFailed` where it is not; `n'` and `data` do not matter. A write
done leaves `XBUF` as it is (20_memory.md R63); a failed one leaves `XBUF` and `XLEN` `UNSPEC` (60_exceptions.md R279,
log 14). -/
def Obligations.ConfigurationWrites : Prop :=
  ∀ (s : State) (i : Instr) (reg v : Byte) (next : BitVec 4),
    (i, reg, v, next) = (.iWhum, s.cfg.ctrlHumReg, s.cfg.ctrlHumVal, 6#4) ∨
      (i, reg, v, next) = (.iWmeas, s.cfg.ctrlMeasReg, s.cfg.ctrlMeasVal, 7#4) ∨
      (i, reg, v, next) = (.iWcfg, s.cfg.configReg, s.cfg.configVal, 8#4) →
    (s.rd.buspend = false → exec i s = .next (issued (asksWrite s.cfg reg v) s)) ∧
    (∀ r, s.rd.buspend = true → s.bus.busrsp = some r →
      exec i s =
        .next
          (if r.ok = true then
            { s with
              rd := { s.rd with buspend := false, seq := next }
              bus := { s.bus with busrsp := none } }
          else initFailed 0x03#8 s))

/-- 41_sequencer.md R151, step `I_DONE`. -/
def Obligations.InitDone : Prop :=
  ∀ s : State,
    exec .iDone s = .next { s with rd := { s.rd with dstate := .ready, rsp := answer 0x01#8 0x00#8, seq := 0#4 } }

/-! ## The steps of READ -/

/-- 41_sequencer.md R152, step `R_DATA`: its request, and its completion; a failure leaves what 60_exceptions.md R279 and
R280 say. A parameter set whose burst runs past offset 0xFF is not admitted (20_memory.md R65, U5); that it is the issue
half that refuses it is the model's reading (log 7). -/
def Obligations.DataStep : Prop :=
  ∀ s : State,
    (s.rd.buspend = false →
      exec .rData s =
        if s.cfg.dataReg.toNat + 8 ≤ 256 then .next (issued (asksRead s.cfg s.cfg.dataReg 0x08#8) s)
        else .refused .burstPastEnd) ∧
    (∀ r, s.rd.buspend = true → s.bus.busrsp = some r →
      exec .rData s =
        .next (if r.ok = true ∧ r.data.length = 8 then gotBytes r.data 10#4 s else readFailed s))

/-- 41_sequencer.md R153 and 42_calibration_decode.md R190, step `R_UNPK`: the three raw values as numbers. -/
def Obligations.UnpackStep : Prop :=
  (∀ (s : State) (d0 d1 d2 d3 d4 d5 d6 d7 : Byte),
    s.rd.xbuf.take 8 = [d0, d1, d2, d3, d4, d5, d6, d7].map Reg.val →
    exec .rUnpk s =
      .next { s with rd := { s.rd with
        rawP := .val (BitVec.ofNat 20 (d0.toNat * 4096 + d1.toNat * 16 + d2.toNat / 16))
        rawT := .val (BitVec.ofNat 20 (d3.toNat * 4096 + d4.toNat * 16 + d5.toNat / 16))
        rawH := .val (BitVec.ofNat 16 (d6.toNat * 256 + d7.toNat))
        seq := 11#4 } }) ∧
  (∀ d0 d1 d2 : Byte, d0.toNat * 4096 + d1.toNat * 16 + d2.toNat / 16 < 2 ^ 20)

/-- 41_sequencer.md R154, step `R_CMPT`, with the example of that rule. -/
def Obligations.TemperatureStep : Prop :=
  (∀ (s : State) (t1 t2 t3 : BitVec 16) (adcT : BitVec 20), s.rd.cal.t1 = .val t1 → s.rd.cal.t2 = .val t2 →
    s.rd.cal.t3 = .val t3 → s.rd.rawT = .val adcT →
    exec .rCmpt s =
      .next { s with rd := { s.rd with
        tfine := .val (compT s.cfg t1 t2 t3 adcT).1
        tint := .val (compT s.cfg t1 t2 t3 adcT).2
        seq := 12#4 } }) ∧
  compTSpec 27504#16 26435#16 (-1000 : BitVec 16) 519888#20 = (128422#32, 2508#32)

/-- 41_sequencer.md R155, step `R_CMPP`, with the example of that rule. -/
def Obligations.PressureStep : Prop :=
  (∀ (s : State) (x : PresCal) (tfine : Word32) (adcP : BitVec 20), s.rd.cal.p1 = .val x.p1 →
    s.rd.cal.p2 = .val x.p2 → s.rd.cal.p3 = .val x.p3 → s.rd.cal.p4 = .val x.p4 → s.rd.cal.p5 = .val x.p5 →
    s.rd.cal.p6 = .val x.p6 → s.rd.cal.p7 = .val x.p7 → s.rd.cal.p8 = .val x.p8 → s.rd.cal.p9 = .val x.p9 →
    s.rd.tfine = .val tfine → s.rd.rawP = .val adcP →
    exec .rCmpp s =
      .next { s with rd := { s.rd with pint := .val (compP s.cfg x tfine adcP), seq := 13#4 } }) ∧
  compPSpec ⟨36477, -10685, 3024, 2855, 140, -7, 15500, -14600, 6000⟩ 128422#32 415148#20 = 25767233#32

/-- 41_sequencer.md R156, step `R_CMPH`, with the example of that rule. -/
def Obligations.HumidityStep : Prop :=
  (∀ (s : State) (x : HumCal) (tfine : Word32) (adcH : BitVec 16), s.rd.cal.h1 = .val x.h1 →
    s.rd.cal.h2 = .val x.h2 → s.rd.cal.h3 = .val x.h3 → s.rd.cal.h4 = .val x.h4 → s.rd.cal.h5 = .val x.h5 →
    s.rd.cal.h6 = .val x.h6 → s.rd.tfine = .val tfine → s.rd.rawH = .val adcH →
    exec .rCmph s =
      .next { s with rd := { s.rd with hint := .val (compH s.cfg x tfine adcH), seq := 14#4 } }) ∧
  compHSpec ⟨75, 367, 0, 301, 50, 30⟩ 128422#32 30000#16 = 61519#32

/-- 41_sequencer.md R157 and 43_compensation.md R212, step `R_CVT`, the divisors in their order. `i2f` is one rounding of
the integer in every format; in the default format `val_F` of every finite pattern is its value and `fdiv` is one
rounding of the exact quotient (00_scope.md R12); with the examples of R212. -/
def Obligations.ScaleStep : Prop :=
  (∀ (s : State) (tint pint hint : Word32), s.rd.tint = .val tint → s.rd.pint = .val pint →
    s.rd.hint = .val hint →
    exec .rCvt s =
      .next { s with rd := { s.rd with
        tf := .val (fdiv s.cfg (i2fSigned s.cfg tint) 100)
        pf := .val (fdiv s.cfg (fdiv s.cfg (i2fUnsigned s.cfg pint) 256) 100)
        hf := .val (fdiv s.cfg (i2fUnsigned s.cfg hint) 1024)
        seq := 15#4 } }) ∧
  (∀ (c : Config) (v : Word32), i2fSigned c v = roundF c (decide (v.toInt < 0)) v.toInt.natAbs 1 ∧
    i2fUnsigned c v = roundF c false v.toNat 1) ∧
  (∀ (c : Config) (p : Word32), c.fmt = .spec → p.toNat % 2 ^ 31 < 0x7F800000 →
    (valueF c p).1 = p.msb ∧ 0 < (valueF c p).2.2 ∧
    ((valueF c p).2.1 : ℚ) / (valueF c p).2.2 = magnitude (p.toNat % 2 ^ 31) ∧
    ∀ k : Nat, 0 < k → ∃ n d : Nat, 0 < d ∧ (n : ℚ) / d = magnitude (p.toNat % 2 ^ 31) / k ∧
      fdiv c p k = roundF c p.msb n d) ∧
  (∀ c : Config, c.fmt = .spec →
    fdiv c (i2fSigned c 2508#32) 100 = 0x41C8A3D7#32 ∧ fdiv c (i2fSigned c (-1 : Word32)) 100 = 0xBC23D70A#32 ∧
    fdiv c (fdiv c (i2fUnsigned c 25767233#32) 256) 100 = 0x447BA214#32 ∧
    fdiv c (i2fUnsigned c 61519#32) 1024 = 0x42704F00#32)

/-- 41_sequencer.md R158, step `R_DONE`: all fields of the response in one step. -/
def Obligations.ReadDone : Prop :=
  ∀ (s : State) (tf pf hf tint pint hint : Word32), s.rd.tf = .val tf → s.rd.pf = .val pf → s.rd.hf = .val hf →
    s.rd.tint = .val tint → s.rd.pint = .val pint → s.rd.hint = .val hint →
    exec .rDone s =
      .next { s with rd := { s.rd with
        dstate := .ready
        rsp :=
          { valid := true, op := .val 0x02#8, status := .val 0x00#8, tf := .val tf, pf := .val pf
            hf := .val hf, tint := .val tint, pint := .val pint, hint := .val hint }
        seq := 0#4 } }

/-- 41_sequencer.md R143 and 44_parser.md R232: the idle steps do nothing, but a response on `BUSRSP` while the RD unit
is idle is discarded; a unit at step 0 has its port ready. -/
def Obligations.IdleSteps : Prop :=
  ∀ s : State,
    exec .idle s = .next { s with bus := { s.bus with busrsp := none } } ∧ exec .pIdle s = .next s ∧
    (s.rd.seq = 0#4 → cmdReady s = true) ∧ (s.sp.pseq = 0#3 → pcmdReady s = true)

/-! ## The steps of PARSE -/

/-- 44_parser.md R233, step `P_PFX`: byte-exact comparison of the first seven bytes with `$GPGGA,`. The registers that
become `UNSPEC` on failure are log 15's reading of 60_exceptions.md R279. -/
def Obligations.PrefixStep : Prop :=
  ∀ (s : State) (text : List Byte), s.sp.sent = .val text →
    exec .pPfx s =
      .next
        (if 7 ≤ text.length ∧ text.take 7 = [0x24#8, 0x47#8, 0x50#8, 0x47#8, 0x47#8, 0x41#8, 0x2C#8] then
          { s with sp := { s.sp with pseq := 2#3 } }
        else parseFailed 0x05#8 s)

/-- 44_parser.md R234, step `P_COPY`: at most `BUF_CAP - 1` characters are kept, 99 with `BUF_CAP = 100`, the terminator
stands behind them, and no kept byte is 0x00 when the sentence has none. -/
def Obligations.CopyStep : Prop :=
  (∀ (s : State) (text : List Byte), s.sp.sent = .val text →
    exec .pCopy s =
      .next { s with sp := { s.sp with
        wlen := .val (min text.length (s.cfg.bufCap - 1))
        wbuf := (text.take (s.cfg.bufCap - 1)).map Reg.val ++
          .val 0x00#8 :: s.sp.wbuf.drop (min text.length (s.cfg.bufCap - 1) + 1)
        pseq := 3#3 } }) ∧
  (∀ (n : Nat) (text : List Byte), 0x00#8 ∉ text → 0x00#8 ∉ text.take n) ∧ Config.default.bufCap - 1 = 99

/-- 44_parser.md R235, step `P_SPLIT`: the count of all fields, and start and length of the first eight; the places of
`FS` and `FL` behind fewer than eight fields keep what they hold, which is the model's choice (log 30). -/
def Obligations.SplitStep : Prop :=
  ∀ (s : State) (text : List Byte), holdsText s.cfg.bufCap s.sp text → s.sp.wbuf.length = s.cfg.bufCap →
    exec .pSplit s =
      .next { s with sp := { s.sp with
        nf := .val (splitText s.cfg text).length
        fs := ((splitText s.cfg text).take 8).map (fun f => Reg.val f.1) ++
          s.sp.fs.drop (min 8 (splitText s.cfg text).length)
        fl := ((splitText s.cfg text).take 8).map (fun f => Reg.val f.2) ++
          s.sp.fl.drop (min 8 (splitText s.cfg text).length)
        pseq := 4#3 } }

/-- 44_parser.md R236, step `P_CNT`: eight fields suffice, fewer end the command, regardless of content. The registers
that become `UNSPEC` are log 15's reading of 60_exceptions.md R279. -/
def Obligations.CountStep : Prop :=
  ∀ (s : State) (n : Nat), s.sp.nf = .val n →
    exec .pCnt s =
      .next (if n < 8 then parseFailed 0x06#8 s else { s with sp := { s.sp with pseq := 5#3 } })

/-- 44_parser.md R237, step `P_SCAN`: fields 2 to 7, each `WBUF[FS[j] .. FS[j] + FL[j]]`, to their registers. -/
def Obligations.ScanStep : Prop :=
  ∀ (s : State) (f2 f3 f4 f5 f6 f7 : List Byte),
    (∀ j f, (j, f) ∈ [(2, f2), (3, f3), (4, f4), (5, f5), (6, f6), (7, f7)] →
      ∃ a, regAt s.sp.fs j = .val a ∧ regAt s.sp.fl j = .val f.length ∧
        a + f.length ≤ s.sp.wbuf.length ∧ (s.sp.wbuf.drop a).take f.length = f.map Reg.val) →
    exec .pScan s =
      .next { s with sp := { s.sp with
        latq := .val (scanFrac s.cfg f2), hlat := .val f3.head?, lonq := .val (scanFrac s.cfg f4)
        hlon := .val f5.head?, qual := .val (scanInt s.cfg f6), sats := .val (scanInt s.cfg f7)
        pseq := 6#3 } }

/-- 44_parser.md R241, step `P_CONV`: the same function for both axes. -/
def Obligations.ConvertStep : Prop :=
  ∀ (s : State) (latq lonq : Decimal) (hlat hlon : Option Byte), s.sp.latq = .val latq → s.sp.hlat = .val hlat →
    s.sp.lonq = .val lonq → s.sp.hlon = .val hlon →
    exec .pConv s =
      .next { s with sp := { s.sp with
        lat := .val (convCoord s.cfg latq hlat), lon := .val (convCoord s.cfg lonq hlon), pseq := 7#3 } }

/-- 44_parser.md R243, step `P_DONE`: the four payload fields together with `VALID`. -/
def Obligations.ParseDone : Prop :=
  ∀ (s : State) (lat lon qual sats : Word32), s.sp.lat = .val lat → s.sp.lon = .val lon → s.sp.qual = .val qual →
    s.sp.sats = .val sats →
    exec .pDone s =
      .next { s with sp := { s.sp with
        prsp :=
          { valid := true, op := .val 0x03#8, status := .val 0x00#8, lat := .val lat, lon := .val lon
            qual := .val qual, sats := .val sats }
        pseq := 0#3 } }

/-- Where an instruction or a stray response stops, and with which name. A word or message sent to a port that is not
ready has no step (00_scope.md R15, U15; log 8); `INIT` at `SEQ = 0` with `DSTATE` 1 or 3 is a state 10_state.md R24
rules out (log 13); a step with an operand register that holds no value is a fault that names such a register (10_state.md
R22, U1); a response nobody asked for is ignored with nothing outstanding and otherwise not admitted (20_memory.md R80
(c), U4, log 6). -/
def Obligations.StopsByName : Prop :=
  ∀ s : State,
    (s.rd.seq ≠ 0#4 → exec .init s = .refused .cmdPortNotReady ∧ exec .read s = .refused .cmdPortNotReady) ∧
    (∀ operand, s.sp.pseq ≠ 0#3 → exec (.parse operand) s = .refused .pcmdPortNotReady) ∧
    (s.rd.seq = 0#4 → s.rd.dstate = .initializing ∨ s.rd.dstate = .reading →
      exec .init s = .refused .initInBusyDriverState) ∧
    (∀ i n, Lacks s i n → ∃ m, Lacks s i m ∧ exec i s = .fault (.unspecRegister m)) ∧
    (nextTurn s = .busUnasked →
      (s.rd.buspend = false → step s =
        .next { s with env := { s.env with turns := s.env.turns.tail, answers := s.env.answers.tail } }) ∧
      (s.rd.buspend = true → step s = .refused .answeredTwice))

/-! ## The collaborator's requests -/

/-- 20_memory.md R62, R64, R80 with 70_reset_and_hazards.md R301: the collaborator carries out a read request. With no
answer yet the request stays (U3); an idle RD unit ignores the answer; the answer to the one outstanding request arrives
on the port; an answer that could only be taken for another request, or that is late from before a reset while a new
command runs, is not admitted (U4, U6: log 6, 33). A read past offset 0xFF is not admitted (U5). -/
def Obligations.ReadRequestAnswered : Prop :=
  ∀ (s : State) (dev : BitVec 7) (reg len wdata : Byte) (timeout : Nat),
    (256 < reg.toNat + len.toNat → exec (.rd dev reg len wdata timeout) s = .refused .burstPastEnd) ∧
    (reg.toNat + len.toNat ≤ 256 →
      (s.env.answers = [] → exec (.rd dev reg len wdata timeout) s = .next s) ∧
      (∀ a more, s.env.answers = a :: more →
        exec (.rd dev reg len wdata timeout) s =
          (let t : State :=
            { s with
              bus := { s.bus with inFlight := s.bus.inFlight.tail }
              env := { s.env with answers := more } }
          if s.rd.buspend = false then (if s.rd.seq = 0#4 then .next t else .refused .lateAnswer)
          else if s.bus.inFlight.tail ≠ [] then .refused .lateAnswer
          else if s.bus.busrsp ≠ none then .refused .answeredTwice
          else .next { t with bus := { t.bus with busrsp := some a } })))

/-- 20_memory.md R63, R72, R75, R80: the collaborator carries out a write request. Where it reports success to the
sensor's own address the sensor is written, and where it reports failure or the address is another device's the sensor is
as before (log 11); the answer goes where that of `RD` goes. What writing the sensor is: the byte is in the register and
every other register keeps its content; the humidity setting in effect changes with the measurement-control register
only, to the value last written to the humidity register if there is one (log 12). -/
def Obligations.WriteRequestAnswered : Prop :=
  (∀ (s : State) (dev : BitVec 7) (reg len wdata : Byte) (timeout : Nat),
    (s.env.answers = [] → exec (.wr dev reg len wdata timeout) s = .next s) ∧
    (∀ a more, s.env.answers = a :: more →
      let t : State :=
        { s with
          bus := { s.bus with
            inFlight := s.bus.inFlight.tail
            sensor := if a.ok = true ∧ dev = s.cfg.devAddr then s.bus.sensor.write s.cfg reg wdata else s.bus.sensor }
          env := { s.env with answers := more } }
      (s.rd.buspend = false → s.rd.seq = 0#4 → exec (.wr dev reg len wdata timeout) s = .next t) ∧
      (s.rd.buspend = false → s.rd.seq ≠ 0#4 →
        exec (.wr dev reg len wdata timeout) s = .refused .lateAnswer) ∧
      (s.rd.buspend = true → s.bus.inFlight.tail = [] → s.bus.busrsp = none →
        exec (.wr dev reg len wdata timeout) s = .next { t with bus := { t.bus with busrsp := some a } }) ∧
      (s.rd.buspend = true → s.bus.inFlight.tail ≠ [] →
        exec (.wr dev reg len wdata timeout) s = .refused .lateAnswer) ∧
      (s.rd.buspend = true → s.bus.inFlight.tail = [] → s.bus.busrsp ≠ none →
        exec (.wr dev reg len wdata timeout) s = .refused .answeredTwice))) ∧
  (∀ (c : Config) (x : Sensor) (reg v : Byte),
    Memory.read (x.write c reg v).regs reg.toNat = some v ∧
    (∀ b, b ≠ reg.toNat → Memory.read (x.write c reg v).regs b = Memory.read x.regs b) ∧
    (reg ≠ c.ctrlMeasReg → (x.write c reg v).humInEffect = x.humInEffect) ∧
    (reg = c.ctrlMeasReg → c.ctrlHumReg ≠ c.ctrlMeasReg →
      (∀ h, Memory.read x.regs c.ctrlHumReg.toNat = some h → (x.write c reg v).humInEffect = some h) ∧
      (Memory.read x.regs c.ctrlHumReg.toNat = none → (x.write c reg v).humInEffect = x.humInEffect)))

/-- 20_memory.md R75 as the model reads it (log 12): a humidity-oversampling value written first takes effect with the
write to the measurement-control register, and one written after it does not. -/
def Obligations.HumidityLatch : Prop :=
  ∀ (c : Config) (x : Sensor) (h m : Byte), c.ctrlHumReg ≠ c.ctrlMeasReg →
    ((x.write c c.ctrlHumReg h).write c c.ctrlMeasReg m).humInEffect = some h ∧
    ((x.write c c.ctrlMeasReg m).write c c.ctrlHumReg h).humInEffect = (x.write c c.ctrlMeasReg m).humInEffect

/-! ## Arithmetic -/

/-- 00_scope.md R9, R10: every integer primitive as its exact integer value wrapped into range, the shifts for the
amounts the rule admits, the quotient rounded toward zero with its one wrapped case. -/
def Obligations.ArithPrimitives : Prop :=
  (∀ z : Int, -2 ^ 31 ≤ wrapS32 z ∧ wrapS32 z < 2 ^ 31 ∧ (2 ^ 32 : Int) ∣ z - wrapS32 z) ∧
  (∀ z : Int, -2 ^ 63 ≤ wrapS64 z ∧ wrapS64 z < 2 ^ 63 ∧ (2 ^ 64 : Int) ∣ z - wrapS64 z) ∧
  (∀ a b : Word32, (add32 a b).toInt = wrapS32 (a.toInt + b.toInt) ∧
    (sub32 a b).toInt = wrapS32 (a.toInt - b.toInt) ∧ (mul32 a b).toInt = wrapS32 (a.toInt * b.toInt)) ∧
  (∀ (a : Word32) (k : Nat), k ≤ 31 →
    (shl32 a k).toInt = wrapS32 (a.toInt * 2 ^ k) ∧ (asr32 a k).toInt = a.toInt / 2 ^ k) ∧
  (∀ a b : Word64, (add64 a b).toInt = wrapS64 (a.toInt + b.toInt) ∧
    (sub64 a b).toInt = wrapS64 (a.toInt - b.toInt) ∧ (mul64 a b).toInt = wrapS64 (a.toInt * b.toInt)) ∧
  (∀ (a : Word64) (k : Nat), k ≤ 63 →
    (shl64 a k).toInt = wrapS64 (a.toInt * 2 ^ k) ∧ (asr64 a k).toInt = a.toInt / 2 ^ k) ∧
  (∀ a b : Word64, b ≠ 0#64 →
    (sdiv64 a b).toInt = if a.toInt = -2 ^ 63 ∧ b.toInt = -1 then -2 ^ 63 else a.toInt.tdiv b.toInt) ∧
  (∀ v lo hi : Word32, (clamp32 v lo hi).toInt =
    if v.toInt < lo.toInt then lo.toInt else if hi.toInt < v.toInt then hi.toInt else v.toInt) ∧
  (∀ a : Word64, ((wrapU32 a).toNat : Int) = a.toInt % 2 ^ 32)

/-- 43_compensation.md R203: the default `CompT` line by line over the integers, every operation wrapped to 32 bits. -/
def Obligations.TemperatureFormula : Prop :=
  ∀ (c : Config) (t1 t2 t3 : BitVec 16) (adcT : BitVec 20), c.compT = .spec →
    let T1 : Int := t1.toNat
    let adc : Int := adcT.toNat
    let a := wrapS32 (adc / 2 ^ 3 - wrapS32 (T1 * 2))
    let var1 := wrapS32 (a * t2.toInt) / 2 ^ 11
    let d := wrapS32 (adc / 2 ^ 4 - T1)
    let var2 := wrapS32 (wrapS32 (d * d) / 2 ^ 12 * t3.toInt) / 2 ^ 14
    let tfine := wrapS32 (var1 + var2)
    (compT c t1 t2 t3 adcT).1.toInt = tfine ∧
    (compT c t1 t2 t3 adcT).2.toInt = wrapS32 (wrapS32 (tfine * 5) + 128) / 2 ^ 8

/-- 43_compensation.md R206: the default `CompP` line by line over the integers, every operation wrapped to 64 bits,
zero where the denominator is zero, the low 32 bits of the last line otherwise. -/
def Obligations.PressureFormula : Prop :=
  ∀ (c : Config) (x : PresCal) (tfine : Word32) (adcP : BitVec 20), c.compP = .spec →
    let v1 := wrapS64 (tfine.toInt - 128000)
    let v2 := wrapS64 (wrapS64 (v1 * v1) * x.p6.toInt)
    let v2 := wrapS64 (v2 + wrapS64 (wrapS64 (v1 * x.p5.toInt) * 2 ^ 17))
    let v2 := wrapS64 (v2 + wrapS64 (x.p4.toInt * 2 ^ 35))
    let w := wrapS64 (wrapS64 (wrapS64 (v1 * v1) * x.p3.toInt) / 2 ^ 8 + wrapS64 (wrapS64 (v1 * x.p2.toInt) * 2 ^ 12))
    let den := wrapS64 (wrapS64 (2 ^ 47 + w) * x.p1.toNat) / 2 ^ 33
    let num := wrapS64 (wrapS64 (wrapS64 (wrapS64 (1048576 - adcP.toNat) * 2 ^ 31) - v2) * 3125)
    let q := wrapS64 (num.tdiv den)
    let w1 := wrapS64 (wrapS64 (x.p9.toInt * (q / 2 ^ 13)) * (q / 2 ^ 13)) / 2 ^ 25
    let w2 := wrapS64 (x.p8.toInt * q) / 2 ^ 19
    let p := wrapS64 (wrapS64 (wrapS64 (q + w1) + w2) / 2 ^ 8 + wrapS64 (x.p7.toInt * 2 ^ 4))
    ((compP c x tfine adcP).toNat : Int) = if den = 0 then 0 else p % 2 ^ 32

/-- 43_compensation.md R209: the default `CompH` line by line over the integers, every operation wrapped to 32 bits,
the clamp before the last shift. -/
def Obligations.HumidityFormula : Prop :=
  ∀ (c : Config) (x : HumCal) (tfine : Word32) (adcH : BitVec 16), c.compH = .spec →
    let v := wrapS32 (tfine.toInt - 76800)
    let a := wrapS32 (wrapS32 (wrapS32 ((adcH.toNat : Int) * 2 ^ 14) - wrapS32 (x.h4.toInt * 2 ^ 20))
      - wrapS32 (x.h5.toInt * v))
    let a := wrapS32 (a + 16384) / 2 ^ 15
    let b1 := wrapS32 (v * x.h6.toInt) / 2 ^ 10
    let b2 := wrapS32 (wrapS32 (v * x.h3.toNat) / 2 ^ 11 + 32768)
    let b := wrapS32 (wrapS32 (b1 * b2) / 2 ^ 10 + 2097152)
    let b := wrapS32 (wrapS32 (b * x.h2.toInt) + 8192) / 2 ^ 14
    let p := wrapS32 (a * b)
    let y := p / 2 ^ 15
    let y2 := wrapS32 (y * y) / 2 ^ 7
    let z := wrapS32 (p - wrapS32 (y2 * x.h1.toNat) / 2 ^ 4)
    ((compH c x tfine adcH).toNat : Int) =
      (if z < 0 then 0 else if 419430400 < z then 419430400 else z) / 2 ^ 12

/-- 43_compensation.md R204: bounds of the default `CompT`; the last additions and the multiplication by 5 do not
wrap. -/
def Obligations.TemperatureBounds : Prop :=
  ∀ (t1 t2 t3 : BitVec 16) (adcT : BitVec 20),
    let var1 := (tempVar1 t1 t2 adcT).toInt
    let var2 := (tempVar2 t1 t3 adcT).toInt
    let tfine := (compTSpec t1 t2 t3 adcT).1.toInt
    let tint := (compTSpec t1 t2 t3 adcT).2.toInt
    (-2 ^ 20 ≤ var1 ∧ var1 < 2 ^ 20) ∧ (-2 ^ 17 ≤ var2 ∧ var2 < 2 ^ 17) ∧ tfine = var1 + var2 ∧
      (-1179648 ≤ tfine ∧ tfine ≤ 1179646) ∧ tint = (5 * tfine + 128) / 256 ∧ (-23040 ≤ tint ∧ tint ≤ 23040)

/-- 43_compensation.md R210: for every admissible configuration `0 <= HINT <= 102400`, and in format binary32
`i2f (HINT)` and `HF = HINT / 1024` are exact, so that `0 <= HF <= 100`. -/
def Obligations.HumidityBounds : Prop :=
  (∀ (c : Config) (x : HumCal) (tfine : Word32) (adcH : BitVec 16), (compH c x tfine adcH).toNat ≤ 102400) ∧
  (∀ (c : Config) (hint : Word32), c.fmt = .spec → hint.toNat ≤ 102400 →
    (i2fUnsigned c hint).toNat < 0x7F800000 ∧ magnitude (i2fUnsigned c hint).toNat = hint.toNat ∧
    (fdiv c (i2fUnsigned c hint) 1024).toNat < 0x7F800000 ∧
    magnitude (fdiv c (i2fUnsigned c hint) 1024).toNat = (hint.toNat : ℚ) / 1024 ∧
    0 ≤ magnitude (fdiv c (i2fUnsigned c hint) 1024).toNat ∧
    magnitude (fdiv c (i2fUnsigned c hint) 1024).toNat ≤ 100)

/-- 43_compensation.md R201 (PP-2), R206: a zero denominator gives pressure 0 under every admissible `CompP`; in the
default one `P1 = 0` forces it, and so does the fine temperature of 95_test_vectors.md V-P3 for every `P1`. -/
def Obligations.PressureZeroDenominator : Prop :=
  (∀ (c : Config) (x : PresCal) (tfine : Word32) (adcP : BitVec 20),
    (c.compP = .spec → presDen x tfine = 0#64 → compP c x tfine adcP = 0#32) ∧
    (∀ k, c.compP = .other k → Config.otherCompPDen k (presFields x) tfine adcP = 0#64 →
      compP c x tfine adcP = 0#32)) ∧
  (∀ (x : PresCal) (tfine : Word32), x.p1 = 0#16 → presDen x tfine = 0#64) ∧
  (∀ x : PresCal, x.p2 = 0#16 → x.p3 = 0x8000#16 → presDen x 1176576#32 = 0#64)

/-- 00_scope.md R12: `RN_F` of the positive rational `n / d` in the default format is the nearest finite pattern, the
even one of two equally near, and infinity exactly from `2^128 - 2^103` on; zero gives plus zero; a negative number
gives the same magnitude with the sign bit. -/
def Obligations.RoundToNearest : Prop :=
  ∀ (c : Config) (n d : Nat), c.fmt = .spec → 0 < n → 0 < d →
    let q : ℚ := (n : ℚ) / d
    let m := (roundF c false n d).toNat
    (q < 2 ^ 128 - 2 ^ 103 → m < 0x7F800000 ∧
      ∀ m' < 0x7F800000, |magnitude m - q| ≤ |magnitude m' - q| ∧
        (|magnitude m - q| = |magnitude m' - q| → m' = m ∨ m % 2 = 0)) ∧
    (2 ^ 128 - 2 ^ 103 ≤ q → m = 0x7F800000) ∧
    (roundF c true n d).toNat = 2 ^ 31 + m ∧ roundF c false 0 d = 0#32 ∧ roundF c true 0 d = 0#32

/-! ## Assembling operands -/

/-- 42_calibration_decode.md R180 to R183: every field of the default layout as a number of the block's bytes. -/
def Obligations.CalibrationFieldValues : Prop :=
  (∀ (b : List Byte) (k : Nat), (le16 b k).toNat = (byteAt b (k + 1)).toNat * 256 + (byteAt b k).toNat) ∧
  (∀ (c : Config) (a : List Byte), c.decA = .spec →
    decA c a = ⟨le16 a 0, le16 a 2, le16 a 4, le16 a 6, le16 a 8, le16 a 10, le16 a 12, le16 a 14, le16 a 16, le16 a 18,
      le16 a 20, le16 a 22⟩) ∧
  (∀ (c : Config) (b : List Byte), c.decB = .spec → decB c b = byteAt b 0) ∧
  (∀ (c : Config) (b : List Byte), c.decC = .spec → (decC c b).h2 = le16 b 0 ∧ (decC c b).h3 = byteAt b 2 ∧
    (decC c b).h4.toInt = (byteAt b 3).toInt * 16 + ((byteAt b 4).toNat % 16 : Nat) ∧
    (decC c b).h5.toInt = (byteAt b 5).toInt * 16 + ((byteAt b 4).toNat / 16 : Nat) ∧
    (decC c b).h6 = byteAt b 6) ∧
  (∀ c : Config, c.decC = .spec →
    decC c [0x6F#8, 0x01#8, 0x00#8, 0x12#8, 0x2D#8, 0x03#8, 0x1E#8] = ⟨367, 0, 301, 50, 30⟩)

/-- 42_calibration_decode.md R184: the decode of the 32 calibration bytes, in the default layout, is a bijection onto
the values in range. -/
def Obligations.DecodeBijection : Prop :=
  ∀ c : Config, c.decA = .spec → c.decB = .spec → c.decC = .spec →
    (∀ x : BlockA, ∃! a : List Byte, a.length = 24 ∧ decA c a = x) ∧
    (∀ x : Byte, ∃! b : List Byte, b.length = 1 ∧ decB c b = x) ∧
    (∀ b : List Byte, b.length = 7 → -2048 ≤ (decC c b).h4.toInt ∧ (decC c b).h4.toInt ≤ 2047 ∧
      -2048 ≤ (decC c b).h5.toInt ∧ (decC c b).h5.toInt ≤ 2047) ∧
    (∀ x : BlockC, -2048 ≤ x.h4.toInt → x.h4.toInt ≤ 2047 → -2048 ≤ x.h5.toInt → x.h5.toInt ≤ 2047 →
      ∃! b : List Byte, b.length = 7 ∧ decC c b = x)

/-- 44_parser.md R235: the default `Split` gives the pieces between the commas, empty ones kept, one more than there are
commas; each next field starts one past the comma that ends the one before. 20_memory.md R82: every field of every
`Split` lies inside the text. 93_implementation_defined.md U7: where no one of the first eight fields is empty, every
`Split` has the same first eight, and fewer than eight where the default has (log 38). -/
def Obligations.SplitFields : Prop :=
  (∀ (c : Config) (w : List Byte), c.split = .spec →
    (splitText c w).map (fun f => (w.drop f.1).take f.2) = w.splitOn 0x2C#8 ∧
    (splitText c w).length = w.count 0x2C#8 + 1 ∧
    (∀ f, (splitText c w)[0]? = some f → f.1 = 0) ∧
    (∀ j f g, (splitText c w)[j]? = some f → (splitText c w)[j + 1]? = some g → g.1 = f.1 + f.2 + 1)) ∧
  (∀ (c : Config) (w : List Byte), ∀ f ∈ splitText c w, f.1 + f.2 ≤ w.length) ∧
  (∀ (c d : Config) (w : List Byte), d.split = .spec → (∀ f ∈ (splitText d w).take 8, f.2 ≠ 0) →
    (splitText c w).take 8 = (splitText d w).take 8 ∧
    ((splitText c w).length < 8 ↔ (splitText d w).length < 8))

/-- 44_parser.md R238, R239: the default number scans on a text cut into its digits and the rest; and, by
93_implementation_defined.md U8, every reading on a text that lies inside the grammar as a whole, an integer up to 31
bits (U18). Which text is inside the grammar is log 38's reading. -/
def Obligations.NumericText : Prop :=
  decValue [] = 0 ∧
  (∀ (a : List Byte) (x : Byte), decValue (a ++ [x]) = 10 * decValue a + (x.toNat - 0x30)) ∧
  (∀ (c : Config) (a b rest : List Byte), c.scanFrac = .spec →
    (∀ x ∈ a, IsDigit x) → (∀ x ∈ b, IsDigit x) → (∀ x, rest.head? = some x → ¬IsDigit x) →
    rat (scanFrac c (a ++ 0x2E#8 :: (b ++ rest))) = decValue a + (decValue b : ℚ) / 10 ^ b.length) ∧
  (∀ (c : Config) (a rest : List Byte), c.scanFrac = .spec →
    (∀ x ∈ a, IsDigit x) → (∀ x, rest.head? = some x → ¬IsDigit x ∧ x ≠ 0x2E#8) →
    rat (scanFrac c (a ++ rest)) = decValue a) ∧
  (∀ (c : Config) (a rest : List Byte), c.scanInt = .spec →
    (∀ x ∈ a, IsDigit x) → (∀ x, rest.head? = some x → ¬IsDigit x) →
    (scanInt c (a ++ rest)).toNat = min (decValue a) (2 ^ 31 - 1)) ∧
  (∀ (c : Config) (a b : List Byte), (∀ x ∈ a, IsDigit x) → (∀ x ∈ b, IsDigit x) →
    rat (scanFrac c (a ++ 0x2E#8 :: b)) = decValue a + (decValue b : ℚ) / 10 ^ b.length) ∧
  (∀ (c : Config) (a : List Byte), (∀ x ∈ a, IsDigit x) →
    rat (scanFrac c a) = decValue a ∧ (decValue a < 2 ^ 31 → (scanInt c a).toNat = decValue a))

/-- 44_parser.md R242, the pseudocode (its closed form has a wrong sign: log 23): plus zero for a zero magnitude, else
one rounding of whole degrees plus minutes over 60, negated for `S` and `W`. -/
def Obligations.ConvCoordValue : Prop :=
  (∀ (c : Config) (q : Decimal) (h : Option Byte), c.conv = .spec →
    (rat q = 0 → convCoord c q h = 0#32) ∧
    (rat q ≠ 0 → ∃ n d : Nat, 0 < d ∧
      (n : ℚ) / d = ⌊rat q / 100⌋ + (rat q - 100 * ⌊rat q / 100⌋) / 60 ∧
      convCoord c q h = roundF c (decide (h = some 0x53#8 ∨ h = some 0x57#8)) n d)) ∧
  (∀ c : Config, c.conv = .spec → c.fmt = .spec →
    convCoord c ⟨4807038, 3⟩ (some 0x4E#8) = 0x4240781D#32 ∧
    convCoord c ⟨1131, 0⟩ (some 0x45#8) = 0x41384444#32 ∧
    convCoord c ⟨9000, 0⟩ (some 0x53#8) = 0xC2B40000#32 ∧
    convCoord c ⟨18000, 0⟩ (some 0x57#8) = 0xC3340000#32)

/-- 44_parser.md R247: the sign properties, for the default conversion and format. -/
def Obligations.ConvSignLaw : Prop :=
  ∀ (c : Config) (q : Decimal) (h : Option Byte), c.conv = .spec → c.fmt = .spec →
    ((2 : ℚ) ^ (-120 : Int) ≤ rat q →
      (h = some 0x53#8 ∨ h = some 0x57#8 →
        (convCoord c q h).msb = true ∧ (convCoord c q h).toNat % 2 ^ 31 ≠ 0) ∧
      (¬(h = some 0x53#8 ∨ h = some 0x57#8) →
        (convCoord c q h).msb = false ∧ (convCoord c q h).toNat % 2 ^ 31 ≠ 0)) ∧
    (rat q = 0 → convCoord c q h = 0x00000000#32) ∧
    (0 < rat q → convCoord c q (some 0x53#8) = convCoord c q (some 0x4E#8) ^^^ 0x80000000#32)

/-! ## The whole machine -/

/-- 00_scope.md R14, R15: a step runs the instruction that the word of the agent whose turn it is decodes to: the word
on `CMD` or `PCMD` when the port is ready, the value of `SEQ` or `PSEQ`, the oldest request at the collaborator. Around
it the step takes the turn, and at a port the message, off its list. -/
def Obligations.StepRunsDecodedInstruction : Prop :=
  ∀ (s : State) (i : Instr) (rest : List Byte),
    (nextTurn s = .host → s.rd.seq = 0#4 → decode s.cfg.tw .cmd8 s.env.cmdIn = .ok (i, rest) →
      step s = exec i { s with env := { s.env with turns := s.env.turns.tail, cmdIn := rest } }) ∧
    (nextTurn s = .hostSp → s.sp.pseq = 0#3 → decode s.cfg.tw .pcmdv s.env.pcmdIn = .ok (i, rest) →
      step s = exec i { s with env := { s.env with turns := s.env.turns.tail, pcmdIn := rest } }) ∧
    (nextTurn s = .rd → decode s.cfg.tw .seq4 [s.rd.seq.setWidth 8] = .ok (i, []) →
      step s = exec i (turnUsed s)) ∧
    (nextTurn s = .sp → decode s.cfg.tw .pseq3 [s.sp.pseq.setWidth 8] = .ok (i, []) →
      step s = exec i (turnUsed s)) ∧
    (∀ q more, nextTurn s = .bus → s.bus.inFlight = q :: more → instrOfReq q = i →
      step s = exec i (turnUsed s))

/-- 10_state.md R48, 70_reset_and_hazards.md R300, R301: `RST`, at any moment and in any state, leaves these values in
every register of both units, the parameters, the sensor and the requests the collaborator holds untouched, and no
response on `BUSRSP` (that one there already is discarded is the model's reading: log 21); nothing but its turn is taken
from the inputs. The state after reset has these registers too. -/
def Obligations.ResetLeaves : Prop :=
  let rd : RdUnit :=
    { dstate := .uninit, seq := 0#4, buspend := false, busreqR := .unspec
      xbuf := List.replicate 24 .unspec, xlen := .val 0#5, tfine := .unspec
      rawP := .unspec, rawT := .unspec, rawH := .unspec, tint := .unspec, pint := .unspec, hint := .unspec
      tf := .unspec, pf := .unspec, hf := .unspec, rsp := noAnswer, cal := noCal }
  let sp (cap : Nat) : SpUnit :=
    { pseq := 0#3, sent := .unspec, wbuf := List.replicate cap .unspec, wlen := .unspec, nf := .unspec
      fs := List.replicate 8 .unspec, fl := List.replicate 8 .unspec, latq := .unspec, lonq := .unspec
      hlat := .unspec, hlon := .unspec, qual := .unspec, sats := .unspec, lat := .unspec, lon := .unspec
      prsp := noAnswerP }
  State.reset.rd = rd ∧ State.reset.sp = sp 100 ∧
    ∀ s : State, nextTurn s = .rst →
      step s = .next { turnUsed s with rd := rd, sp := sp s.cfg.bufCap, bus := { s.bus with busrsp := none } }

/-- The invariant of Safety.lean holds right after reset (10_state.md R24, R37, R48). -/
def Obligations.InvAtReset : Prop := Inv State.reset

/-- Every step keeps the invariant of Safety.lean: the ties between `SEQ` and `DSTATE` (10_state.md R24), a valid
calibration in `READY` and `READING` (R37), one outstanding request at most and it is the current step's (20_memory.md
R76), every register written before a step of the same command reads it (R22, R28, 70_reset_and_hazards.md R310), the
working buffer's bounds (20_memory.md R82), no response while a command runs (R33, R44), the form of the responses (60
R270, R284), the canonical form of the sensor's register space. -/
def Obligations.StepKeepsInv : Prop :=
  ∀ s t : State, Inv s → step s = .next t → Inv t

/-- In a state of the invariant, with an admitted parameter set, a step always goes on: no instruction faults or is
refused, unless the host reads a response field that is not present, or the collaborator breaks 20_memory.md R80, or the
host 70_reset_and_hazards.md R301: no command runs while a request from before a reset is in flight. In particular no step reads an `UNSPEC` register (10_state.md R22). -/
def Obligations.StepGoesOn : Prop :=
  ∀ s : State, Inv s → s.cfg.admitted = true → (nextTurn s).isHostRead = false →
    (nextTurn s = .busUnasked → s.rd.buspend = false) →
    (s.rd.seq ≠ 0#4 → s.bus.inFlight.length ≤ if s.rd.buspend then 1 else 0) →
    ∃ t, step s = .next t

/-- 00_scope.md R14: the RD unit and the SP unit share no state. A turn of one unit, of its port or of its bus leaves
the other as it is, and what it does to its own unit does not depend on the other: two states that agree on one unit's
side (its registers, its inputs, and for the RD unit its bus) come out of the same turn agreeing on it. -/
def Obligations.UnitsShareNoState : Prop :=
  (∀ s t : State, step s = .next t →
    (nextTurn s = .sp ∨ nextTurn s = .hostSp ∨ (∃ f, nextTurn s = .readPrsp f) →
      t.rd = s.rd ∧ t.bus = s.bus ∧ t.env.cmdIn = s.env.cmdIn ∧ t.env.answers = s.env.answers) ∧
    (nextTurn s = .rd ∨ nextTurn s = .host ∨ nextTurn s = .bus ∨ nextTurn s = .busUnasked ∨
        (∃ f, nextTurn s = .readRsp f) →
      t.sp = s.sp ∧ t.env.pcmdIn = s.env.pcmdIn)) ∧
  (∀ s s' t : State, s'.cfg = s.cfg → s'.sp = s.sp → s'.env.pcmdIn = s.env.pcmdIn → nextTurn s' = nextTurn s →
    nextTurn s = .sp ∨ nextTurn s = .hostSp ∨ (∃ f, nextTurn s = .readPrsp f) → step s = .next t →
    ∃ t', step s' = .next t' ∧ t'.sp = t.sp ∧ t'.env.pcmdIn = t.env.pcmdIn) ∧
  (∀ s s' t : State, s'.cfg = s.cfg → s'.rd = s.rd → s'.bus = s.bus → s'.env.cmdIn = s.env.cmdIn →
    s'.env.answers = s.env.answers → nextTurn s' = nextTurn s →
    nextTurn s = .rd ∨ nextTurn s = .host ∨ nextTurn s = .bus ∨ nextTurn s = .busUnasked ∨
      (∃ f, nextTurn s = .readRsp f) → step s = .next t →
    ∃ t', step s' = .next t' ∧ t'.rd = t.rd ∧ t'.bus = t.bus ∧ t'.env.cmdIn = t.env.cmdIn ∧
      t'.env.answers = t.env.answers)

/-- 70_reset_and_hazards.md R314: `CAL` changes only at steps 2, 3, 4 and where an `INIT` fails, which leaves it `UNSPEC`
with `DSTATE = 0`, or at reset; and once `DSTATE` is `READY` or `READING` no step but reset changes it or leaves these
two states. The premise is 10_state.md R24. -/
def Obligations.CalWrittenOncePerSession : Prop :=
  ∀ s t : State, step s = .next t → nextTurn s ≠ .rst →
    (t.rd.cal ≠ s.rd.cal → nextTurn s = .rd ∧
      (s.rd.seq = 2#4 ∨ s.rd.seq = 3#4 ∨ s.rd.seq = 4#4 ∨ t.rd.cal = noCal ∧ t.rd.dstate = .uninit)) ∧
    ((s.rd.dstate = .initializing ↔ 1 ≤ s.rd.seq.toNat ∧ s.rd.seq.toNat ≤ 8) →
      s.rd.dstate = .ready ∨ s.rd.dstate = .reading →
      t.rd.cal = s.rd.cal ∧ (t.rd.dstate = .ready ∨ t.rd.dstate = .reading))

/-- 40_commands.md R121: a whole `INIT`, in the order of turns that the model takes when none is given (DESIGN CHOICE,
log 1), with every transfer answered `Ok`: 23 steps lead to `READY` with the calibration of the three blocks, the
response `{OP = 0x01, STATUS = 0x00}`, and the humidity setting in effect at the sensor (log 12). -/
def Obligations.InitRun : Prop :=
  ∀ (s : State) (r0 r1 r2 r3 r4 r5 r6 : BusRsp) (words : List Byte) (more : List BusRsp),
    s.cfg.admitted = true → s.cfg.ctrlHumReg ≠ s.cfg.ctrlMeasReg → s.rd.seq = 0#4 → s.rd.dstate = .uninit →
    s.rd.buspend = false → s.bus.busrsp = none → s.bus.inFlight = [] → s.sp.pseq = 0#3 → s.env.turns = [] →
    s.env.cmdIn = 0x01#8 :: words → s.env.answers = r0 :: r1 :: r2 :: r3 :: r4 :: r5 :: r6 :: more →
    (∀ r ∈ [r0, r1, r2, r3, r4, r5, r6], r.ok = true) → r0.data = [s.cfg.idValue] → r1.data.length = 24 →
    r2.data.length = 1 → r3.data.length = 7 →
    ∃ t : State, Sys2Proof.core.run 23 s = .next t ∧ t.rd.dstate = .ready ∧ t.rd.seq = 0#4 ∧
      t.rd.rsp = answer 0x01#8 0x00#8 ∧ t.rd.cal = fullCal (decA s.cfg r1.data) (decB s.cfg r2.data) (decC s.cfg r3.data) ∧
      t.rd.buspend = false ∧ t.bus.inFlight = [] ∧ t.bus.sensor.humInEffect = some s.cfg.ctrlHumVal ∧
      t.env.cmdIn = words ∧ t.env.answers = more ∧ t.sp = s.sp

/-- 40_commands.md R122: a whole `READ`, in the order of turns that the model takes when none is given (log 1), with
its burst answered `Ok`: ten steps lead back to `READY`, the calibration unchanged, with the three compensated values,
the last two computed from the fine temperature of the same burst, and their scaled values in one response. -/
def Obligations.ReadRun : Prop :=
  ∀ (s : State) (a : BlockA) (h1 : Byte) (b : BlockC) (r : BusRsp) (words : List Byte) (more : List BusRsp),
    s.cfg.admitted = true → s.rd.seq = 0#4 → s.rd.dstate = .ready → s.rd.buspend = false →
    s.bus.busrsp = none → s.bus.inFlight = [] → s.sp.pseq = 0#3 → s.env.turns = [] →
    s.env.cmdIn = 0x02#8 :: words → s.rd.cal = fullCal a h1 b →
    s.env.answers = r :: more → r.ok = true → r.data.length = 8 →
    let temp := compT s.cfg a.t1 a.t2 a.t3 (unpackT r.data)
    let pres := compP s.cfg ⟨a.p1, a.p2, a.p3, a.p4, a.p5, a.p6, a.p7, a.p8, a.p9⟩ temp.1 (unpackP r.data)
    let hum := compH s.cfg ⟨h1, b.h2, b.h3, b.h4, b.h5, b.h6⟩ temp.1 (unpackH r.data)
    ∃ t : State, Sys2Proof.core.run 10 s = .next t ∧ t.rd.dstate = .ready ∧ t.rd.seq = 0#4 ∧ t.rd.cal = s.rd.cal ∧
      t.rd.rsp =
        { valid := true, op := .val 0x02#8, status := .val 0x00#8
          tf := .val (cvtT s.cfg temp.2), pf := .val (cvtP s.cfg pres), hf := .val (cvtH s.cfg hum)
          tint := .val temp.2, pint := .val pres, hint := .val hum } ∧
      t.bus.inFlight = [] ∧ t.env.cmdIn = words ∧ t.env.answers = more ∧ t.sp = s.sp

/-- 44_parser.md R231: acceptance and the steps of a `PARSE` come to `PRSP <- ParseResult (sentence)`, the fused form,
with the RD unit and the bus as before. `SENT` keeps the latched sentence to the end, after a failed `PARSE` too, which is
the model's reading of 60_exceptions.md R279 (log 15). -/
def Obligations.ParseRun : Prop :=
  ∀ (s : State) (len : Byte) (operand rest text : List Byte) (later : List Turn), s.sp.pseq = 0#3 →
    s.env.turns = [.hostSp, .sp, .sp, .sp, .sp, .sp, .sp, .sp] ++ later →
    s.env.pcmdIn = 0x03#8 :: len :: (operand ++ rest) → operand.length = len.toNat → IsSentenceOf text operand →
    ∃ t : State, Sys2Proof.core.run 8 s = .next t ∧ t.sp.prsp = parseResult s.cfg text ∧ t.sp.pseq = 0#3 ∧
      t.sp.sent = .val text ∧ t.rd = s.rd ∧ t.bus = s.bus ∧ t.env.turns = later ∧ t.env.pcmdIn = rest

/-- 44_parser.md R253: the response of a `PARSE` depends on its sentence alone, and on no more of it than its first
`BUF_CAP - 1` characters (99 with `BUF_CAP = 100`, and at least the 7 of the prefix, D23): two runs, in any two states
of the instance, of sentences that agree there end with the same response. -/
def Obligations.ParseIsPure : Prop :=
  ∀ (s s' t t' : State) (len len' : Byte) (operand operand' rest rest' text text' : List Byte) (later later' : List Turn),
    s'.cfg = s.cfg → 8 ≤ s.cfg.bufCap → s.sp.pseq = 0#3 → s'.sp.pseq = 0#3 →
    s.env.turns = [.hostSp, .sp, .sp, .sp, .sp, .sp, .sp, .sp] ++ later →
    s'.env.turns = [.hostSp, .sp, .sp, .sp, .sp, .sp, .sp, .sp] ++ later' →
    s.env.pcmdIn = 0x03#8 :: len :: (operand ++ rest) → operand.length = len.toNat → IsSentenceOf text operand →
    s'.env.pcmdIn = 0x03#8 :: len' :: (operand' ++ rest') → operand'.length = len'.toNat →
    IsSentenceOf text' operand' → text'.take (s.cfg.bufCap - 1) = text.take (s.cfg.bufCap - 1) →
    Sys2Proof.core.run 8 s = .next t → Sys2Proof.core.run 8 s' = .next t' → t'.sp.prsp = t.sp.prsp

/-- 10_state.md R33, R44, R47, 60_exceptions.md R284: a host read of a response field changes nothing and goes on
exactly when the field is present: `OP` and `STATUS` when `VALID = 1`, a payload field when moreover the status is 0x00
(and, in `RSP`, the command was `READ`); else it is a fault of the model. -/
def Obligations.HostReads : Prop :=
  (∀ (s : State) (f : RspField), nextTurn s = .readRsp f → rspShape s.rd.rsp →
    let present := s.rd.rsp.valid = true ∧
      (f = .op ∨ f = .status ∨ (s.rd.rsp.op = .val 0x02#8 ∧ s.rd.rsp.status = .val 0x00#8))
    (present → step s = .next (turnUsed s)) ∧ (¬present → step s = .fault (.unspecResponse f))) ∧
  (∀ (s : State) (f : PrspField), nextTurn s = .readPrsp f → prspShape s.sp.prsp →
    let present := s.sp.prsp.valid = true ∧ (f = .op ∨ f = .status ∨ s.sp.prsp.status = .val 0x00#8)
    (present → step s = .next (turnUsed s)) ∧ (¬present → step s = .fault (.unspecPResponse f)))

/-- 30_encoding.md R93, R94: the bits of the two response registers, with the vectors V-E20, V-E25, V-E28, V-E30,
V-E31 of 95_test_vectors.md. -/
def Obligations.ResponseWords : Prop :=
  (∀ op status : Byte, (answer op status).headBits = .val (1 + 2 * op.toNat + 2 ^ 9 * status.toNat)) ∧
  (∀ op status : Byte, (answerP op status).headBits = .val (1 + 2 * op.toNat + 2 ^ 9 * status.toNat)) ∧
  (∀ tf pf hf tint pint hint : Word32,
    Rsp.wordBits
        { valid := true, op := .val 0x02#8, status := .val 0x00#8, tf := .val tf, pf := .val pf, hf := .val hf
          tint := .val tint, pint := .val pint, hint := .val hint } =
      .val ((hint ++ pint ++ tint ++ hf ++ pf ++ tf ++ 0x00#8 ++ 0x02#8 ++ 1#1).toNat)) ∧
  (∀ lat lon qual sats : Word32,
    Prsp.wordBits
        { valid := true, op := .val 0x03#8, status := .val 0x00#8, lat := .val lat, lon := .val lon
          qual := .val qual, sats := .val sats } =
      .val ((sats ++ qual ++ lon ++ lat ++ 0x00#8 ++ 0x03#8 ++ 1#1).toNat)) ∧
  (answer 0x01#8 0x00#8).headBits = .val 0x00003 ∧ (answer 0x02#8 0x80#8).headBits = .val 0x10005 ∧
  (answerP 0x03#8 0x05#8).headBits = .val 0x00A07 ∧
  Rsp.wordBits
      { valid := true, op := .val 0x02#8, status := .val 0x00#8, tf := .val 0x41C8A3D7#32
        pf := .val 0x447BA214#32, hf := .val 0x42704F00#32, tint := .val 2508#32, pint := .val 25767233#32
        hint := .val 61519#32 } = .val 0x1E09E03125A820000139884E09E0088F74428839147AE0005 ∧
  Prsp.wordBits
      { valid := true, op := .val 0x03#8, status := .val 0x00#8, lat := .val 0x4240781D#32
        lon := .val 0x41384444#32, qual := .val 1#32, sats := .val 8#32 } = .val 0x1000000002827088888480F03A0007

end
end

