-- ==== Sys2Proof/Laws/Decode.lean ====
section
/-! SUPPORT. What encoding and decoding do together, beyond the instructions. -/

namespace Sys2Proof

/-- Bytes come back from their number. -/
theorem bytesOfNat_natOfBytes (bs : List Byte) : bytesOfNat bs.length (natOfBytes bs) = bs := by
  induction bs with
  | nil => rfl
  | cons b bs ih =>
    have hb := b.isLt
    have h1 : BitVec.ofNat 8 (b.toNat + 256 * natOfBytes bs) = b := by
      apply BitVec.eq_of_toNat_eq
      simp
      omega
    have h2 : (b.toNat + 256 * natOfBytes bs) / 256 = natOfBytes bs := by omega
    simp only [List.length_cons, bytesOfNat, natOfBytes, h1, h2, ih]

/-- A response comes back from its bits (30_encoding.md R97): `n'` fits its eight bits, so nothing spills. -/
theorem rspOfBits_rspBits (r : BusRsp) : rspOfBits (rspBits r) = r := by
  obtain ⟨ok, data, fits⟩ := r
  have h : rspBits ⟨ok, data, fits⟩ = (if ok then 1 else 0) + 2 * data.length + 512 * natOfBytes data := rfl
  have hn : rspBits ⟨ok, data, fits⟩ / 2 % 256 = data.length := by rw [h]; split <;> omega
  have hd : rspBits ⟨ok, data, fits⟩ / 512 = natOfBytes data := by rw [h]; split <;> omega
  have ho : (rspBits ⟨ok, data, fits⟩ % 2 == 1) = ok := by rw [h]; cases ok <;> simp <;> omega
  simp only [rspOfBits, BusRsp.mk.injEq]
  exact ⟨ho, by rw [hn, hd, bytesOfNat_natOfBytes]⟩

end Sys2Proof
end

