-- ==== Sys2Proof/Laws/State.lean ====
section
/-! SUPPORT. One lemma per field per update of State, so that no proof unfolds a record update. -/

namespace Sys2Proof.Machine

@[simp] theorem withRd_cfg (s : State) (r : RdUnit) : (s.withRd r).cfg = s.cfg := rfl
@[simp] theorem withRd_rd (s : State) (r : RdUnit) : (s.withRd r).rd = r := rfl
@[simp] theorem withRd_sp (s : State) (r : RdUnit) : (s.withRd r).sp = s.sp := rfl
@[simp] theorem withRd_bus (s : State) (r : RdUnit) : (s.withRd r).bus = s.bus := rfl
@[simp] theorem withRd_env (s : State) (r : RdUnit) : (s.withRd r).env = s.env := rfl

@[simp] theorem withSp_cfg (s : State) (p : SpUnit) : (s.withSp p).cfg = s.cfg := rfl
@[simp] theorem withSp_rd (s : State) (p : SpUnit) : (s.withSp p).rd = s.rd := rfl
@[simp] theorem withSp_sp (s : State) (p : SpUnit) : (s.withSp p).sp = p := rfl
@[simp] theorem withSp_bus (s : State) (p : SpUnit) : (s.withSp p).bus = s.bus := rfl
@[simp] theorem withSp_env (s : State) (p : SpUnit) : (s.withSp p).env = s.env := rfl

@[simp] theorem withBus_cfg (s : State) (b : Bus) : (s.withBus b).cfg = s.cfg := rfl
@[simp] theorem withBus_rd (s : State) (b : Bus) : (s.withBus b).rd = s.rd := rfl
@[simp] theorem withBus_sp (s : State) (b : Bus) : (s.withBus b).sp = s.sp := rfl
@[simp] theorem withBus_bus (s : State) (b : Bus) : (s.withBus b).bus = b := rfl
@[simp] theorem withBus_env (s : State) (b : Bus) : (s.withBus b).env = s.env := rfl

@[simp] theorem withEnv_cfg (s : State) (e : Env) : (s.withEnv e).cfg = s.cfg := rfl
@[simp] theorem withEnv_rd (s : State) (e : Env) : (s.withEnv e).rd = s.rd := rfl
@[simp] theorem withEnv_sp (s : State) (e : Env) : (s.withEnv e).sp = s.sp := rfl
@[simp] theorem withEnv_bus (s : State) (e : Env) : (s.withEnv e).bus = s.bus := rfl
@[simp] theorem withEnv_env (s : State) (e : Env) : (s.withEnv e).env = e := rfl

@[simp] theorem withRd_withRd (s : State) (a b : RdUnit) : (s.withRd a).withRd b = s.withRd b := rfl
@[simp] theorem withSp_withSp (s : State) (a b : SpUnit) : (s.withSp a).withSp b = s.withSp b := rfl
@[simp] theorem withBus_withBus (s : State) (a b : Bus) : (s.withBus a).withBus b = s.withBus b := rfl
@[simp] theorem withEnv_withEnv (s : State) (a b : Env) : (s.withEnv a).withEnv b = s.withEnv b := rfl
@[simp] theorem withBus_withRd (s : State) (b : Bus) (r : RdUnit) :
    (s.withBus b).withRd r = (s.withRd r).withBus b := rfl
@[simp] theorem withSp_withRd (s : State) (p : SpUnit) (r : RdUnit) :
    (s.withSp p).withRd r = (s.withRd r).withSp p := rfl
@[simp] theorem withBus_withSp (s : State) (b : Bus) (p : SpUnit) :
    (s.withBus b).withSp p = (s.withSp p).withBus b := rfl
@[simp] theorem withEnv_withRd (s : State) (e : Env) (r : RdUnit) :
    (s.withEnv e).withRd r = (s.withRd r).withEnv e := rfl
@[simp] theorem withEnv_withSp (s : State) (e : Env) (p : SpUnit) :
    (s.withEnv e).withSp p = (s.withSp p).withEnv e := rfl
@[simp] theorem withEnv_withBus (s : State) (e : Env) (b : Bus) :
    (s.withEnv e).withBus b = (s.withBus b).withEnv e := rfl

end Sys2Proof.Machine
end

