-- ==== Sys2Proof/Laws/Ops.lean ====
section
/-! SUPPORT. What each shared operation can do, said once. -/

namespace Sys2Proof.Machine

/-! ## Reading registers -/

@[simp] theorem Reg.get_val {α : Type} (v : α) (n : RegName) : (Reg.val v).get n = .ok v := rfl
@[simp] theorem Reg.get_unspec {α : Type} (n : RegName) : (Reg.unspec : Reg α).get n = .error (.unspecRegister n) := rfl

/-- A register read succeeds exactly on a value. -/
theorem Reg.get_ok {α : Type} {r : Reg α} {n : RegName} {v : α} (h : r.get n = .ok v) : r = .val v := by
  cases r with
  | unspec => simp at h
  | val w => simpa using h

@[simp] theorem onRead_ok {α : Type} (a : α) (k : α → StepOut) : onRead (.ok a) k = k a := rfl
@[simp] theorem onRead_error {α : Type} (e : Fault) (k : α → StepOut) : onRead (.error e) k = .fault e := rfl

/-- A step that goes on has read its operands. -/
theorem onRead_next {α : Type} {x : Except Fault α} {k : α → StepOut} {t : State} (h : onRead x k = .next t) :
    ∃ a, x = .ok a ∧ k a = .next t := by
  cases x with
  | error e => simp at h
  | ok a => exact ⟨a, rfl, h⟩

@[simp] theorem cellValues_map_val (n : RegName) (bs : List Byte) : cellValues n (bs.map Reg.val) = .ok bs := by
  induction bs with
  | nil => rfl
  | cons b bs ih => simp [cellValues, ih]

/-- Reading cells that all hold values succeeds. -/
theorem cellValues_of_isVal (n : RegName) (cs : List (Reg Byte)) (h : ∀ c ∈ cs, ∃ v, c = .val v) :
    ∃ bs, cs = bs.map Reg.val ∧ cellValues n cs = .ok bs := by
  induction cs with
  | nil => exact ⟨[], rfl, rfl⟩
  | cons c cs ih =>
    obtain ⟨v, rfl⟩ := h c (by simp)
    obtain ⟨bs, rfl, hb⟩ := ih fun d hd => h d (by simp [hd])
    exact ⟨v :: bs, rfl, by simp [cellValues, hb]⟩

/-- What a successful read of cells says about them. -/
theorem cellValues_ok {n : RegName} {cs : List (Reg Byte)} {bs : List Byte} (h : cellValues n cs = .ok bs) :
    cs = bs.map Reg.val := by
  induction cs generalizing bs with
  | nil => cases h; rfl
  | cons c cs ih =>
    simp only [cellValues] at h
    split at h
    · rename_i b bs' hb hbs
      cases h
      simp [Reg.get_ok hb, ih hbs]
    · cases h
    · cases h

/-- What a successful read of a window of a buffer says, one place at a time. -/
theorem readCells_ok {n : RegName} {buf : List (Reg Byte)} {start len : Nat} {bs : List Byte}
    (h : readCells n buf start len = .ok bs) :
    bs.length = len ∧ ∀ k < len, regAt buf (start + k) = .val (bs.getD k 0#8) := by
  have hc := cellValues_ok h
  have hl : bs.length = len := by simpa using (congrArg List.length hc).symm
  refine ⟨hl, fun k hk => ?_⟩
  have hk' := congrArg (fun l => l[k]?) hc
  simp [hk, hl] at hk'
  simp [List.getD, hk, hl, hk']

/-- A window of values inside a buffer reads as those values. -/
theorem readCells_of_take {n : RegName} {buf : List (Reg Byte)} {start : Nat} {bs : List Byte}
    (h : (buf.drop start).take bs.length = bs.map Reg.val) : readCells n buf start bs.length = .ok bs := by
  have hw : (List.range bs.length).map (fun k => regAt buf (start + k)) = bs.map Reg.val := by
    rw [← h]
    have hl : bs.length ≤ buf.length - start := by
      have := congrArg List.length h
      simp at this
      omega
    apply List.ext_getElem?
    intro k
    by_cases hk : k < bs.length
    · have : start + k < buf.length := by omega
      simp [hk, regAt, this]
    · simp [hk, hl]
  rw [readCells, hw, cellValues_map_val]

@[simp] theorem overwrite_length {α : Type} (vs : List α) (buf : List (Reg α)) (h : vs.length ≤ buf.length) :
    (overwrite vs buf).length = buf.length := by
  simp [overwrite]
  omega

/-- The overwritten cells read back. -/
theorem overwrite_take {α : Type} (vs : List α) (buf : List (Reg α)) :
    (overwrite vs buf).take vs.length = vs.map Reg.val := by
  rw [overwrite, List.take_left' (by simp)]

/-- The other cells stay. -/
theorem overwrite_drop {α : Type} (vs : List α) (buf : List (Reg α)) :
    (overwrite vs buf).drop vs.length = buf.drop vs.length := by
  rw [overwrite, List.drop_left' (by simp)]

/-! ## The sensor's register space -/

/-- A read after a write. -/
theorem Memory.read_write (m : Memory) (a b : Nat) (v : Byte) :
    (m.write a v).read b = if a = b then some v else m.read b := by
  induction m with
  | nil => rfl
  | cons c t ih =>
    simp only [Memory.write]
    split
    · rfl
    · split
      · rename_i hc
        simp only [Memory.read, hc]
        split <;> rfl
      · rename_i hc
        by_cases hb : c.1 = b
        · have : a ≠ b := by omega
          simp [Memory.read, hb, this]
        · simp [Memory.read, hb, ih]

/-- Writing names no new offset but the written one. -/
theorem Memory.mem_write {m : Memory} {a : Nat} {v : Byte} {c : Host.Cell} (h : c ∈ m.write a v) :
    c = (a, v) ∨ c ∈ m := by
  induction m with
  | nil => simpa [Memory.write] using h
  | cons d t ih =>
    simp only [Memory.write] at h
    split at h
    · simpa using h
    · split at h
      · rcases List.mem_cons.1 h with h | h
        · exact .inl h
        · exact .inr (by simp [h])
      · rcases List.mem_cons.1 h with h | h
        · exact .inr (by simp [h])
        · exact (ih h).imp id fun h => by simp [h]

/-- A write keeps the canonical form. -/
theorem Memory.write_wf (m : Memory) (a : Nat) (v : Byte) (ha : a < 256) (h : m.wf) : (m.write a v).wf := by
  obtain ⟨hp, hb⟩ := h
  refine ⟨?_, fun c hc => ?_⟩
  · induction m with
    | nil => simp [Memory.write]
    | cons d t ih =>
      have hd := List.pairwise_cons.1 hp
      simp only [Memory.write]
      split
      · rename_i hlt
        refine List.pairwise_cons.2 ⟨fun x hx => ?_, hp⟩
        rcases List.mem_cons.1 hx with rfl | hx
        · exact hlt
        · exact Nat.lt_trans hlt (hd.1 x hx)
      · split
        · rename_i heq
          exact List.pairwise_cons.2 ⟨fun x hx => heq ▸ hd.1 x hx, hd.2⟩
        · refine List.pairwise_cons.2 ⟨fun x hx => ?_, ih hd.2 fun c hc => hb c (by simp [hc])⟩
          rcases Memory.mem_write hx with rfl | hx
          · show d.1 < a
            omega
          · exact hd.1 x hx
  · rcases Memory.mem_write hc with rfl | hc
    · exact ha
    · exact hb c hc

/-- The sensor after reset lists nothing. -/
theorem reset_memory_wf : State.reset.bus.sensor.regs.wf := by
  simp [Memory.wf, State.reset]

/-- A completed write at the sensor keeps the canonical form. -/
theorem Sensor.write_wf (c : Config) (x : Sensor) (reg v : Byte) (h : x.regs.wf) : (x.write c reg v).regs.wf :=
  Memory.write_wf _ _ _ reg.isLt h

/-! ## Step registers, refusals, trap entry -/

@[simp] theorem setSeq_rd (v : BitVec 4) (s : State) : (setSeq v s).rd = { s.rd with seq := v } := rfl
@[simp] theorem setSeq_cfg (v : BitVec 4) (s : State) : (setSeq v s).cfg = s.cfg := rfl
@[simp] theorem setSeq_sp (v : BitVec 4) (s : State) : (setSeq v s).sp = s.sp := rfl
@[simp] theorem setSeq_bus (v : BitVec 4) (s : State) : (setSeq v s).bus = s.bus := rfl
@[simp] theorem setSeq_env (v : BitVec 4) (s : State) : (setSeq v s).env = s.env := rfl

@[simp] theorem setPseq_sp (v : BitVec 3) (s : State) : (setPseq v s).sp = { s.sp with pseq := v } := rfl
@[simp] theorem setPseq_cfg (v : BitVec 3) (s : State) : (setPseq v s).cfg = s.cfg := rfl
@[simp] theorem setPseq_rd (v : BitVec 3) (s : State) : (setPseq v s).rd = s.rd := rfl
@[simp] theorem setPseq_bus (v : BitVec 3) (s : State) : (setPseq v s).bus = s.bus := rfl
@[simp] theorem setPseq_env (v : BitVec 3) (s : State) : (setPseq v s).env = s.env := rfl

@[simp] theorem refuseRd_rd (op : Byte) (e : Err) (s : State) :
    (refuseRd op e s).rd = { s.rd with rsp := Rsp.ended op e.code } := rfl
@[simp] theorem refuseRd_cfg (op : Byte) (e : Err) (s : State) : (refuseRd op e s).cfg = s.cfg := rfl
@[simp] theorem refuseRd_sp (op : Byte) (e : Err) (s : State) : (refuseRd op e s).sp = s.sp := rfl
@[simp] theorem refuseRd_bus (op : Byte) (e : Err) (s : State) : (refuseRd op e s).bus = s.bus := rfl
@[simp] theorem refuseRd_env (op : Byte) (e : Err) (s : State) : (refuseRd op e s).env = s.env := rfl

@[simp] theorem refuseSp_sp (op : Byte) (e : Err) (s : State) :
    (refuseSp op e s).sp = { s.sp with prsp := Prsp.ended op e.code } := rfl
@[simp] theorem refuseSp_cfg (op : Byte) (e : Err) (s : State) : (refuseSp op e s).cfg = s.cfg := rfl
@[simp] theorem refuseSp_rd (op : Byte) (e : Err) (s : State) : (refuseSp op e s).rd = s.rd := rfl
@[simp] theorem refuseSp_bus (op : Byte) (e : Err) (s : State) : (refuseSp op e s).bus = s.bus := rfl
@[simp] theorem refuseSp_env (op : Byte) (e : Err) (s : State) : (refuseSp op e s).env = s.env := rfl

/-- Trap entry of the RD unit changes that unit alone. -/
theorem raiseRd_eq (op : Byte) (e : Err) (s : State) : raiseRd op e s = s.withRd (raiseRd op e s).rd := by
  unfold raiseRd
  split <;> rfl

@[simp] theorem raiseRd_cfg (op : Byte) (e : Err) (s : State) : (raiseRd op e s).cfg = s.cfg := by
  rw [raiseRd_eq]; rfl
@[simp] theorem raiseRd_sp (op : Byte) (e : Err) (s : State) : (raiseRd op e s).sp = s.sp := by
  rw [raiseRd_eq]; rfl
@[simp] theorem raiseRd_bus (op : Byte) (e : Err) (s : State) : (raiseRd op e s).bus = s.bus := by
  rw [raiseRd_eq]; rfl
@[simp] theorem raiseRd_env (op : Byte) (e : Err) (s : State) : (raiseRd op e s).env = s.env := by
  rw [raiseRd_eq]; rfl

/-- Trap entry of the RD unit in `INIT`. -/
theorem raiseRd_init (e : Err) (s : State) : (raiseRd opInit e s).rd =
    { s.rd with
      buspend := false, rsp := Rsp.ended opInit e.code, dstate := .uninit, cal := Cal.unspec
      xbuf := List.replicate 24 .unspec, xlen := .unspec, seq := 0#4 } := rfl

/-- Trap entry of the RD unit in `READ`. -/
theorem raiseRd_read (e : Err) (s : State) : (raiseRd opRead e s).rd =
    { s.rd with buspend := false, rsp := Rsp.ended opRead e.code, dstate := .ready, seq := 0#4 } := rfl

@[simp] theorem raiseSp_cfg (e : Err) (s : State) : (raiseSp e s).cfg = s.cfg := rfl
@[simp] theorem raiseSp_rd (e : Err) (s : State) : (raiseSp e s).rd = s.rd := rfl
@[simp] theorem raiseSp_bus (e : Err) (s : State) : (raiseSp e s).bus = s.bus := rfl
@[simp] theorem raiseSp_env (e : Err) (s : State) : (raiseSp e s).env = s.env := rfl
@[simp] theorem raiseSp_pseq (e : Err) (s : State) : (raiseSp e s).sp.pseq = 0#3 := rfl
@[simp] theorem raiseSp_prsp (e : Err) (s : State) : (raiseSp e s).sp.prsp = Prsp.ended opParse e.code := rfl

@[simp] theorem clearRsp_rd (s : State) : (clearRsp s).rd = { s.rd with rsp := Rsp.cleared } := rfl
@[simp] theorem clearRsp_cfg (s : State) : (clearRsp s).cfg = s.cfg := rfl
@[simp] theorem clearRsp_sp (s : State) : (clearRsp s).sp = s.sp := rfl
@[simp] theorem clearRsp_bus (s : State) : (clearRsp s).bus = s.bus := rfl
@[simp] theorem clearRsp_env (s : State) : (clearRsp s).env = s.env := rfl

@[simp] theorem clearPrsp_sp (s : State) : (clearPrsp s).sp = { s.sp with prsp := Prsp.cleared } := rfl
@[simp] theorem clearPrsp_cfg (s : State) : (clearPrsp s).cfg = s.cfg := rfl
@[simp] theorem clearPrsp_rd (s : State) : (clearPrsp s).rd = s.rd := rfl
@[simp] theorem clearPrsp_bus (s : State) : (clearPrsp s).bus = s.bus := rfl
@[simp] theorem clearPrsp_env (s : State) : (clearPrsp s).env = s.env := rfl

/-! ## Transfers -/

@[simp] theorem issue_rd (q : BusReq) (s : State) :
    (issue q s).rd = { s.rd with busreqR := .val q, buspend := true } := rfl
@[simp] theorem issue_bus (q : BusReq) (s : State) :
    (issue q s).bus = { s.bus with inFlight := s.bus.inFlight ++ [q] } := rfl
@[simp] theorem issue_cfg (q : BusReq) (s : State) : (issue q s).cfg = s.cfg := rfl
@[simp] theorem issue_sp (q : BusReq) (s : State) : (issue q s).sp = s.sp := rfl
@[simp] theorem issue_env (q : BusReq) (s : State) : (issue q s).env = s.env := rfl

@[simp] theorem takeResponse_rd (s : State) : (takeResponse s).rd = { s.rd with buspend := false } := rfl
@[simp] theorem takeResponse_bus (s : State) : (takeResponse s).bus = { s.bus with busrsp := none } := rfl
@[simp] theorem takeResponse_cfg (s : State) : (takeResponse s).cfg = s.cfg := rfl
@[simp] theorem takeResponse_sp (s : State) : (takeResponse s).sp = s.sp := rfl
@[simp] theorem takeResponse_env (s : State) : (takeResponse s).env = s.env := rfl

@[simp] theorem loadXbuf_rd (data : List Byte) (s : State) : (loadXbuf data s).rd =
    { s.rd with xbuf := overwrite data s.rd.xbuf, xlen := .val (BitVec.ofNat 5 data.length) } := rfl
@[simp] theorem loadXbuf_cfg (data : List Byte) (s : State) : (loadXbuf data s).cfg = s.cfg := rfl
@[simp] theorem loadXbuf_sp (data : List Byte) (s : State) : (loadXbuf data s).sp = s.sp := rfl
@[simp] theorem loadXbuf_bus (data : List Byte) (s : State) : (loadXbuf data s).bus = s.bus := rfl
@[simp] theorem loadXbuf_env (data : List Byte) (s : State) : (loadXbuf data s).env = s.env := rfl

/-- The judgement of a read: success with exactly `n` bytes. -/
theorem judgeRead_some {n : Nat} {r : BusRsp} {data : List Byte} (h : judgeRead n r = some data) :
    r.ok = true ∧ r.data = data ∧ data.length = n := by
  unfold judgeRead at h
  split at h
  · rename_i hr
    cases h
    exact ⟨hr.1, rfl, hr.2⟩
  · cases h

/-- Everything a transfer step can do when it goes on: issue, wait, or complete. -/
theorem transfer_cases {req : BusReq} {complete : BusRsp → State → State} {s t : State}
    (h : transfer req complete s = .next t) :
    (s.rd.buspend = false ∧ fitsSpace req.reg req.len = true ∧ t = issue req s) ∨
    (s.rd.buspend = true ∧ s.bus.busrsp = none ∧ t = s) ∨
    (∃ r, s.rd.buspend = true ∧ s.bus.busrsp = some r ∧ t = complete r (takeResponse s)) := by
  unfold transfer at h
  split at h
  · rename_i hp
    split at h
    · rename_i hn; cases h; exact .inr (.inl ⟨hp, hn, rfl⟩)
    · rename_i r hr; cases h; exact .inr (.inr ⟨r, hp, hr, rfl⟩)
  · rename_i hp
    split at h
    · rename_i hf; cases h; exact .inl ⟨by simpa using hp, hf, rfl⟩
    · cases h

/-- The same of a reading step, its completion split into failure and success. -/
theorem readTransfer_cases {reg : Byte} {n : Nat} {op : Byte} {e : Err} {done : List Byte → State → State}
    {s t : State} (h : readTransfer reg n op e done s = .next t) :
    (s.rd.buspend = false ∧ fitsSpace reg (BitVec.ofNat 8 n) = true ∧ t = issue (readReq s.cfg reg n) s) ∨
    (s.rd.buspend = true ∧ s.bus.busrsp = none ∧ t = s) ∨
    (∃ r, s.rd.buspend = true ∧ s.bus.busrsp = some r ∧ judgeRead n r = none ∧
      t = raiseRd op e (takeResponse s)) ∨
    (∃ r data, s.rd.buspend = true ∧ s.bus.busrsp = some r ∧ judgeRead n r = some data ∧
      t = done data (loadXbuf data (takeResponse s))) := by
  rcases transfer_cases h with h | h | ⟨r, hp, hr, rfl⟩
  · exact .inl h
  · exact .inr (.inl h)
  · cases hj : judgeRead n r with
    | none => exact .inr (.inr (.inl ⟨r, hp, hr, hj, rfl⟩))
    | some data => exact .inr (.inr (.inr ⟨r, data, hp, hr, hj, rfl⟩))

/-- The same of a writing step. -/
theorem writeTransfer_cases {reg v : Byte} {next : BitVec 4} {s t : State}
    (h : writeTransfer reg v next s = .next t) :
    (s.rd.buspend = false ∧ fitsSpace reg 1#8 = true ∧ t = issue (writeReq s.cfg reg v) s) ∨
    (s.rd.buspend = true ∧ s.bus.busrsp = none ∧ t = s) ∨
    (∃ r, s.rd.buspend = true ∧ s.bus.busrsp = some r ∧ r.ok = false ∧
      t = raiseRd opInit .configWriteFailed (takeResponse s)) ∨
    (∃ r, s.rd.buspend = true ∧ s.bus.busrsp = some r ∧ r.ok = true ∧ t = setSeq next (takeResponse s)) := by
  rcases transfer_cases h with h | h | ⟨r, hp, hr, rfl⟩
  · exact .inl h
  · exact .inr (.inl h)
  · cases hj : r.ok with
    | false => exact .inr (.inr (.inl ⟨r, hp, hr, hj, by simp⟩))
    | true => exact .inr (.inr (.inr ⟨r, hp, hr, hj, by simp⟩))

/-- Everything a delivery can do when it goes on: the idle unit ignores the response, or it is the one answer asked
for. -/
theorem deliver_cases {r : BusRsp} {s t : State} (h : deliver r s = .next t) :
    (s.rd.buspend = false ∧ s.rd.seq = 0#4 ∧ t = s) ∨
    (s.rd.buspend = true ∧ s.bus.inFlight = [] ∧ s.bus.busrsp = none ∧
      t = s.withBus { s.bus with busrsp := some r }) := by
  unfold deliver at h
  split at h
  · rename_i hp
    split at h
    · cases h
    · rename_i hf
      split at h
      · cases h
      · rename_i hn
        cases h
        exact .inr ⟨hp, by simpa using hf, by simpa using hn, rfl⟩
  · rename_i hp
    split at h
    · cases h
    · rename_i hb
      cases h
      exact .inl ⟨by simpa using hp, by simpa [busy] using hb, rfl⟩

/-- An unasked response goes on only by being ignored. -/
theorem deliverUnasked_cases {s t : State} (h : deliverUnasked s = .next t) : s.rd.buspend = false ∧ t = s := by
  unfold deliverUnasked at h
  split at h
  · cases h
  · rename_i hp
    cases h
    exact ⟨by simpa using hp, rfl⟩

@[simp] theorem dropOldest_bus (s : State) :
    (dropOldest s).bus = { s.bus with inFlight := s.bus.inFlight.tail } := rfl
@[simp] theorem dropOldest_rd (s : State) : (dropOldest s).rd = s.rd := rfl
@[simp] theorem dropOldest_sp (s : State) : (dropOldest s).sp = s.sp := rfl
@[simp] theorem dropOldest_cfg (s : State) : (dropOldest s).cfg = s.cfg := rfl
@[simp] theorem dropOldest_env (s : State) : (dropOldest s).env = s.env := rfl
@[simp] theorem popAnswer_env (s : State) :
    (popAnswer s).env = { s.env with answers := s.env.answers.tail } := rfl
@[simp] theorem popAnswer_rd (s : State) : (popAnswer s).rd = s.rd := rfl
@[simp] theorem popAnswer_sp (s : State) : (popAnswer s).sp = s.sp := rfl
@[simp] theorem popAnswer_cfg (s : State) : (popAnswer s).cfg = s.cfg := rfl
@[simp] theorem popAnswer_bus (s : State) : (popAnswer s).bus = s.bus := rfl

/-! ## Reset and host reads -/

@[simp] theorem assertReset_rd (s : State) : (assertReset s).rd = RdUnit.reset := rfl
@[simp] theorem assertReset_sp (s : State) : (assertReset s).sp = SpUnit.reset s.cfg.bufCap := rfl
@[simp] theorem assertReset_bus (s : State) : (assertReset s).bus = { s.bus with busrsp := none } := rfl
@[simp] theorem assertReset_cfg (s : State) : (assertReset s).cfg = s.cfg := rfl
@[simp] theorem assertReset_env (s : State) : (assertReset s).env = s.env := rfl

/-- A host read that goes on changes nothing. -/
theorem hostReadsRsp_next {f : RspField} {s t : State} (h : hostReadsRsp f s = .next t) : t = s := by
  unfold hostReadsRsp at h
  split at h
  · cases h
  · cases h; rfl

/-- The same on the SP side. -/
theorem hostReadsPrsp_next {f : PrspField} {s t : State} (h : hostReadsPrsp f s = .next t) : t = s := by
  unfold hostReadsPrsp at h
  split at h
  · cases h
  · cases h; rfl

end Sys2Proof.Machine
end

