-- ==== Sys2Proof/Laws/Parser.lean ====
section
/-! SUPPORT. What is computed from a rational does not depend on the pair of numbers that writes it (00_scope.md R12,
44_parser.md R242). Where all readings of a text agree (93_implementation_defined.md U7, U8), and that every `Split`
stays inside the text (20_memory.md R82). -/

namespace Sys2Proof.Machine

/-- Equal rationals have the same lowest terms. -/
theorem lowestTerms_congr {a b c d : Nat} (hb : 0 < b) (hd : 0 < d) (e : a * d = c * b) :
    lowestTerms a b = lowestTerms c d := by
  have hg : Nat.gcd a b * d = Nat.gcd c d * b := by
    rw [← Nat.gcd_mul_right, ← Nat.gcd_mul_right, e, Nat.mul_comm b d]
  have hg1 : 0 < Nat.gcd a b := Nat.gcd_pos_of_pos_right a hb
  have hg2 : 0 < Nat.gcd c d := Nat.gcd_pos_of_pos_right c hd
  unfold lowestTerms
  obtain ⟨b', hb'⟩ := Nat.gcd_dvd_right a b
  obtain ⟨a', ha'⟩ := Nat.gcd_dvd_left a b
  obtain ⟨d', hd'⟩ := Nat.gcd_dvd_right c d
  obtain ⟨c', hc'⟩ := Nat.gcd_dvd_left c d
  generalize Nat.gcd a b = g at *
  generalize Nat.gcd c d = g' at *
  subst hb' ha' hd' hc'
  have hbd : b' = d' := by
    have : g * g' * d' = g * g' * b' := by linarith [hg]
    exact (Nat.eq_of_mul_eq_mul_left (Nat.mul_pos hg1 hg2) this).symm
  subst hbd
  have hb0 : 0 < b' := Nat.pos_of_mul_pos_left hb
  have hac : a' = c' := by
    have : g * g' * b' * a' = g * g' * b' * c' := by linarith [e]
    exact Nat.eq_of_mul_eq_mul_left (Nat.mul_pos (Nat.mul_pos hg1 hg2) hb0) this
  subst hac
  simp [hg1, hg2]

/-- Another float format rounds equal rationals alike. -/
theorem roundF_congr {c : Config} {k a b m n : Nat} (hc : c.fmt = .other k) (hb : 0 < b) (hn : 0 < n)
    (e : a * n = m * b) (neg : Bool) : roundF c neg a b = roundF c neg m n := by
  simp only [roundF, hc, lowestTerms_congr hb hn e]

/-- Two decimals write the same rational. -/
def sameRational (p q : Decimal) : Prop := p.mant * 10 ^ q.scale = q.mant * 10 ^ p.scale

/-- Another `ConvCoord` converts equal rationals alike. -/
theorem convCoord_congr {c : Config} {k : Nat} {p q : Decimal} (hc : c.conv = .other k) (h : sameRational p q)
    (hemisphere : Option Byte) : convCoord c p hemisphere = convCoord c q hemisphere := by
  have hz : p.mant = 0 ↔ q.mant = 0 := by
    have hp : 0 < 10 ^ p.scale := by positivity
    have hq : 0 < 10 ^ q.scale := by positivity
    unfold sameRational at h
    constructor <;> intro e <;> rw [e] at h <;> simp at h <;> omega
  simp only [convCoord, hc, hz,
    lowestTerms_congr (Nat.pow_pos (by decide)) (Nat.pow_pos (by decide)) h]

/-! ## The readings of a text -/

/-- U8: every reading of a well-formed degrees-minutes text is the default one. -/
theorem scanFrac_of_wellFormed (c : Config) {t : List Byte} (h : wellFormedFrac t = true) :
    scanFrac c t = scanFracSpec t := by
  cases e : c.scanFrac <;> simp [scanFrac, e, h]

/-- U8, U18: every reading of a well-formed integer text is the default one. -/
theorem scanInt_of_wellFormed (c : Config) {t : List Byte} (h : wellFormedInt t = true) :
    scanInt c t = scanIntSpec t := by
  cases e : c.scanInt <;> simp [scanInt, e, h]

/-- A field of the default splitting starts no earlier than the text it is taken from and ends inside it. -/
theorem splitFrom_bounds {t : List Byte} {start i : Nat} (hs : start ≤ i) {f : Nat × Nat}
    (hf : f ∈ splitFrom start i t) : f.1 + f.2 ≤ i + t.length := by
  induction t generalizing start i with
  | nil =>
    simp only [splitFrom, List.mem_singleton] at hf
    subst hf
    simp only [List.length_nil]
    omega
  | cons x xs ih =>
    simp only [splitFrom] at hf
    simp only [List.length_cons]
    split at hf
    · rcases List.mem_cons.1 hf with rfl | hf
      · simp only
        omega
      · have := ih (Nat.le_refl _) hf
        omega
    · have := ih (Nat.le_succ_of_le hs) hf
      omega

/-- A field inside the text is kept as it is. -/
theorem clipField_of_le {n : Nat} {f : Nat × Nat} (h : f.1 + f.2 ≤ n) : clipField n f = f := by
  ext <;> simp only [clipField] <;> omega

/-- A kept field lies inside the text. -/
theorem clipField_bounds (n : Nat) (f : Nat × Nat) : (clipField n f).1 + (clipField n f).2 ≤ n := by
  simp only [clipField]
  omega

/-- 20_memory.md R82: every field of every `Split` lies inside the text. -/
theorem splitText_bounds {c : Config} {w : List Byte} {f : Nat × Nat} (hf : f ∈ splitText c w) :
    f.1 + f.2 ≤ w.length := by
  unfold splitText at hf
  split at hf
  · simpa using splitFrom_bounds (Nat.le_refl 0) hf
  · obtain ⟨g, -, rfl⟩ := List.mem_map.1 hf
    exact clipField_bounds _ _

/-- U7: where no one of the first eight default fields is empty, every `Split` has the same first eight fields. -/
theorem splitText_take_of_full (c : Config) {w : List Byte} (h : firstFieldsFull (splitSpec w) = true) :
    (splitText c w).take 8 = (splitSpec w).take 8 := by
  unfold splitText
  split
  · rfl
  · have hclip : ((splitSpec w).take 8).map (clipField w.length) = (splitSpec w).take 8 := by
      conv_rhs => rw [← List.map_id ((splitSpec w).take 8)]
      refine List.map_congr_left fun f hf => clipField_of_le ?_
      simpa using splitFrom_bounds (Nat.le_refl 0) (List.mem_of_mem_take hf)
    simp only [splitAgreeing, h, if_true, List.map_append, hclip]
    split
    · simp
    · rw [List.take_append_of_le_length (by rw [List.length_take]; omega), List.take_take, Nat.min_self]

/-- U7: there, every `Split` finds fewer than eight fields just where the default one does. -/
theorem splitText_length_of_full (c : Config) {w : List Byte} (h : firstFieldsFull (splitSpec w) = true) :
    (splitText c w).length < 8 ↔ (splitSpec w).length < 8 := by
  have := congrArg List.length (splitText_take_of_full c h)
  simp only [List.length_take] at this
  omega

end Sys2Proof.Machine
end

