-- ==== Sys2Proof/Laws/PerInstr.lean ====
section
/-! SUPPORT. Statements about every instruction as syntax, one lemma per constructor. -/

namespace Sys2Proof.Laws.FormatLength

/-- How many bytes hold a message of the instruction's format (30_encoding.md R91, R92, R96, R99): one byte for a
command word on `CMD` and for a step number, `2 + len` for `PCMDV`, `32 + TW` bits for a request. -/
def messageBytes (tw : Nat) : Instr → Nat
  | .parse operand => 2 + operand.length
  | .rd .. | .wr .. => reqBytes tw
  | .init | .read | .idle | .iId | .iCala | .iCalb | .iCalc | .iWhum | .iWmeas | .iWcfg | .iDone => 1
  | .rData | .rUnpk | .rCmpt | .rCmpp | .rCmph | .rCvt | .rDone => 1
  | .pIdle | .pPfx | .pCopy | .pSplit | .pCnt | .pScan | .pConv | .pDone => 1

/-- The encoder writes exactly the bytes of the instruction's format. -/
def Statement (i : Instr) : Prop := ∀ tw, (encode tw i).length = messageBytes tw i

theorem init : Statement .init := fun _ => rfl
theorem read : Statement .read := fun _ => rfl
theorem parse (operand : List Byte) : Statement (.parse operand) := by
  intro tw
  simp [encode, messageBytes]
  omega
theorem idle : Statement .idle := fun _ => rfl
theorem iId : Statement .iId := fun _ => rfl
theorem iCala : Statement .iCala := fun _ => rfl
theorem iCalb : Statement .iCalb := fun _ => rfl
theorem iCalc : Statement .iCalc := fun _ => rfl
theorem iWhum : Statement .iWhum := fun _ => rfl
theorem iWmeas : Statement .iWmeas := fun _ => rfl
theorem iWcfg : Statement .iWcfg := fun _ => rfl
theorem iDone : Statement .iDone := fun _ => rfl
theorem rData : Statement .rData := fun _ => rfl
theorem rUnpk : Statement .rUnpk := fun _ => rfl
theorem rCmpt : Statement .rCmpt := fun _ => rfl
theorem rCmpp : Statement .rCmpp := fun _ => rfl
theorem rCmph : Statement .rCmph := fun _ => rfl
theorem rCvt : Statement .rCvt := fun _ => rfl
theorem rDone : Statement .rDone := fun _ => rfl
theorem pIdle : Statement .pIdle := fun _ => rfl
theorem pPfx : Statement .pPfx := fun _ => rfl
theorem pCopy : Statement .pCopy := fun _ => rfl
theorem pSplit : Statement .pSplit := fun _ => rfl
theorem pCnt : Statement .pCnt := fun _ => rfl
theorem pScan : Statement .pScan := fun _ => rfl
theorem pConv : Statement .pConv := fun _ => rfl
theorem pDone : Statement .pDone := fun _ => rfl
theorem rd (dev : BitVec 7) (reg len wdata : Byte) (timeout : Nat) : Statement (.rd dev reg len wdata timeout) :=
  fun _ => bytesOfNat_length _ _
theorem wr (dev : BitVec 7) (reg len wdata : Byte) (timeout : Nat) : Statement (.wr dev reg len wdata timeout) :=
  fun _ => bytesOfNat_length _ _

end Sys2Proof.Laws.FormatLength
end

