-- ==== Sys2Proof/Tests/Slice0.lean ====
section
/-! SUPPORT. The model's own tests. Expected values are those of spec/95_test_vectors.md or of the worked examples of the
rules, named in each comment. Every test is about one step. The second half shows, for each statement with hypotheses,
concrete states and operands that meet them. -/

namespace Sys2Proof.Tests
open Sys2Proof Sys2Proof.Machine Sys2Proof.Expect

/-! ## Helpers -/

/-- An instance with a numeric timeout. -/
def cfg : Config := { Config.default with timeout := 7 }

/-- The machine after reset, of that instance. -/
def s0 : State := { State.reset with cfg := cfg }

/-- One field of a next state. -/
def out {α : Type} (f : State → α) : StepOut → Option α
  | .next t => some (f t)
  | .fault _ => none
  | .refused _ => none

/-- The name of a stop. -/
def stop : StepOut → Option (Fault ⊕ Refusal)
  | .next _ => none
  | .fault r => some (.inl r)
  | .refused r => some (.inr r)

/-- At step `v` of a command, nothing outstanding. -/
def atSeq (v : BitVec 4) : State :=
  s0.withRd { s0.rd with seq := v, dstate := if v.toNat ≤ 8 then .initializing else .reading }

/-- A response (30_encoding.md R97). -/
abbrev rsp (ok : Bool) (data : List Byte) (fits : data.length ≤ 255 := by decide) : BusRsp := ⟨ok, data, fits⟩

/-- At step `v` with its request outstanding and `r` on the port. -/
def answered (v : BitVec 4) (r : BusRsp) : State :=
  let s := atSeq v
  (s.withRd { s.rd with buspend := true }).withBus { s.bus with busrsp := some r }

/-- At step `v` of a `PARSE` of `text`. -/
def atPseq (v : BitVec 3) (text : List Byte) : State :=
  s0.withSp { s0.sp with pseq := v, sent := .val text }

/-- The collaborator holds `q`, which is outstanding, and will answer `a`. -/
def held (q : BusReq) (a : BusRsp) : State :=
  let s := atSeq 1#4
  ((s.withRd { s.rd with buspend := true, busreqR := .val q }).withBus { s.bus with inFlight := [q] }).withEnv
    { s.env with answers := [a] }

/-! ## WellFormed refuses ill-formed terms (30_encoding.md R92, R96) -/

theorem test_wf_operand_too_long : (Instr.parse (List.replicate 256 0x41#8)).wellFormed 32 = false := by
  decide +kernel
theorem test_wf_read_length : (Instr.rd 0x76#7 0xD0#8 2#8 0#8 0).wellFormed 32 = false := by decide
theorem test_wf_read_data : (Instr.rd 0x76#7 0xD0#8 1#8 1#8 0).wellFormed 32 = false := by decide
theorem test_wf_write_length : (Instr.wr 0x76#7 0xF2#8 2#8 1#8 0).wellFormed 32 = false := by decide
theorem test_wf_timeout : (Instr.wr 0x76#7 0xF2#8 1#8 1#8 256).wellFormed 8 = false := by decide
theorem test_wf_read_timeout : (Instr.rd 0x76#7 0xF7#8 8#8 0#8 256).wellFormed 8 = false := by decide

/-! ## Decoding: the words of section 2.1 and the step numbers of 10_state.md R24, R40 -/

/-- V-E1, V-E2. -/
theorem test_decode_cmd8 : decode 32 .cmd8 [0x01#8] = .ok (.init, []) ∧ decode 32 .cmd8 [0x02#8] = .ok (.read, []) := by
  decide

/-- 30_encoding.md R100: every other opcode on `CMD` is refused by name. -/
theorem test_decode_cmd8_illegal : decode 32 .cmd8 [0x03#8] = .error (.illegalOpcode 0x03#8) ∧
    decode 32 .cmd8 [0x00#8] = .error (.illegalOpcode 0x00#8) := by decide

/-- V-E3, V-E4; what follows a message is left. -/
theorem test_decode_pcmdv :
    decode 32 .pcmdv [0x03#8, 0x07#8, 0x24#8, 0x47#8, 0x50#8, 0x47#8, 0x47#8, 0x41#8, 0x2C#8, 0x99#8] =
      .ok (.parse [0x24#8, 0x47#8, 0x50#8, 0x47#8, 0x47#8, 0x41#8, 0x2C#8], [0x99#8]) ∧
    decode 32 .pcmdv [0x03#8, 0x00#8] = .ok (.parse [], []) ∧
    decode 32 .pcmdv [0x03#8, 0x02#8, 0x41#8] = .error .incomplete := by decide

/-- The sixteen values of `SEQ`. -/
theorem test_decode_seq4 :
    [0x0#8, 0x1#8, 0x2#8, 0x3#8, 0x4#8, 0x5#8, 0x6#8, 0x7#8, 0x8#8, 0x9#8, 0xA#8, 0xB#8, 0xC#8, 0xD#8, 0xE#8,
        0xF#8].map (fun b => decode 32 .seq4 [b]) =
      [.idle, .iId, .iCala, .iCalb, .iCalc, .iWhum, .iWmeas, .iWcfg, .iDone, .rData, .rUnpk, .rCmpt, .rCmpp, .rCmph,
        .rCvt, .rDone].map (fun i => .ok (i, [])) := by decide

/-- The eight values of `PSEQ`. -/
theorem test_decode_pseq3 :
    [0x0#8, 0x1#8, 0x2#8, 0x3#8, 0x4#8, 0x5#8, 0x6#8, 0x7#8].map (fun b => decode 32 .pseq3 [b]) =
      [.pIdle, .pPfx, .pCopy, .pSplit, .pCnt, .pScan, .pConv, .pDone].map (fun i => .ok (i, [])) := by decide

/-- V-E6 to V-E13, lowest byte first, without their open timeout. -/
theorem test_decode_busreq :
    decode 0 .busreq [0xEC#8, 0xD0#8, 0x01#8, 0x00#8] = .ok (.rd 0x76#7 0xD0#8 1#8 0#8 0, []) ∧
    decode 0 .busreq [0xEC#8, 0x88#8, 0x18#8, 0x00#8] = .ok (.rd 0x76#7 0x88#8 24#8 0#8 0, []) ∧
    decode 0 .busreq [0xEC#8, 0xA1#8, 0x01#8, 0x00#8] = .ok (.rd 0x76#7 0xA1#8 1#8 0#8 0, []) ∧
    decode 0 .busreq [0xEC#8, 0xE1#8, 0x07#8, 0x00#8] = .ok (.rd 0x76#7 0xE1#8 7#8 0#8 0, []) ∧
    decode 0 .busreq [0xED#8, 0xF2#8, 0x01#8, 0x01#8] = .ok (.wr 0x76#7 0xF2#8 1#8 0x01#8 0, []) ∧
    decode 0 .busreq [0xED#8, 0xF4#8, 0x01#8, 0x27#8] = .ok (.wr 0x76#7 0xF4#8 1#8 0x27#8 0, []) ∧
    decode 0 .busreq [0xED#8, 0xF5#8, 0x01#8, 0xA0#8] = .ok (.wr 0x76#7 0xF5#8 1#8 0xA0#8 0, []) ∧
    decode 0 .busreq [0xEC#8, 0xF7#8, 0x08#8, 0x00#8] = .ok (.rd 0x76#7 0xF7#8 8#8 0#8 0, []) := by decide

/-- V-E14 to V-E19. -/
theorem test_busrsp_bits :
    rspOfBits 0xC003 = (rsp true [0x60#8]) ∧ rspOfBits 0xB003 = (rsp true [0x58#8]) ∧ rspOfBits 0 = (rsp false []) ∧
    rspOfBits 1 = (rsp true []) ∧
    rspBits (rsp true [0x65#8, 0x5A#8, 0xC0#8, 0x7E#8, 0xED#8, 0x00#8, 0x75#8, 0x30#8]) = 0x60EA01DAFD80B4CA11 ∧
    rspOfBits 0x3C065A240002DE0F = (rsp true [0x6F#8, 0x01#8, 0x00#8, 0x12#8, 0x2D#8, 0x03#8, 0x1E#8]) := by decide

/-- The host's table words: format by width (log 3). -/
theorem test_table_words : decodeTableWord 8 1 = some .init ∧ decodeTableWord 16 3 = some (.parse []) ∧
    decodeTableWord 4 12 = some .rCmpp ∧ decodeTableWord 3 7 = some .pDone ∧
    decodeTableWord 32 0x0001D0EC = some (.rd 0x76#7 0xD0#8 1#8 0#8 0) := by decide

/-- A placed word runs as the first instruction after reset. -/
theorem test_fetch_word_step : out (fun t => t.rd.seq) (step (State.reset.withFetchWord 4 10)) = some 11#4 := rfl
theorem test_fetch_word_command : out (fun t => t.rd.seq) (step (State.reset.withFetchWord 8 1)) = some 1#4 := rfl

/-! ## Commands -/

/-- 40_commands.md R120 case (3). -/
theorem test_init : out (fun t => (t.rd.dstate, t.rd.seq)) (exec .init s0) = some (.initializing, 1#4) := by decide

/-- V-E25: `READ` before any `INIT`. -/
theorem test_read_refused : out (fun t => (t.rd.rsp.headBits, t.rd.dstate)) (exec .read s0) =
    some (.val 0x10005, .uninit) := by decide

/-- V-E26: `INIT` in `READY`; V-X: `READ` in `READY` starts. -/
theorem test_commands_ready :
    out (fun t => t.rd.rsp.headBits) (exec .init (s0.withRd { s0.rd with dstate := .ready })) = some (.val 0x10003) ∧
    out (fun t => (t.rd.dstate, t.rd.seq)) (exec .read (s0.withRd { s0.rd with dstate := .ready })) =
      some (.reading, 9#4) := by decide

/-- 20_memory.md R81: the sentence ends at the first 0x00. -/
theorem test_parse : out (fun t => (t.sp.sent, t.sp.pseq)) (exec (.parse [0x41#8, 0x00#8, 0x42#8]) s0) =
    some (.val [0x41#8], 1#3) := by decide

/-- V-E27: an illegal opcode on `CMD`; V-E31: opcode 0x02 on `PCMD`. -/
theorem test_illegal_opcodes :
    out (fun t => t.rd.rsp.headBits) (step (s0.withEnv { s0.env with cmdIn := [0x7F#8] })) = some (.val 0x102FF) ∧
    out (fun t => t.sp.prsp.headBits) (step (s0.withEnv { s0.env with pcmdIn := [0x02#8, 0x00#8] })) =
      some (.val 0x10205) := by decide

/-! ## Steps of INIT -/

/-- V-E14: the documented identity; V-E15, V-E21: another byte. -/
theorem test_iId : out (fun t => t.rd.seq) (exec .iId (answered 1#4 (rspOfBits 0xC003))) = some 2#4 ∧
    out (fun t => (t.rd.rsp.headBits, t.rd.dstate)) (exec .iId (answered 1#4 (rspOfBits 0xB003))) =
      some (.val 0x203, .uninit) := by decide

/-- V-D1: first, third and last field of block A. -/
theorem test_iCala :
    out (fun t => (t.rd.cal.t1, t.rd.cal.t3, t.rd.cal.p9, t.rd.seq))
      (exec .iCala (answered 2#4 (rsp true [0x70#8, 0x6B#8, 0x43#8, 0x67#8, 0x18#8, 0xFC#8, 0x7D#8, 0x8E#8, 0x43#8, 0xD6#8,
        0xD0#8, 0x0B#8, 0x27#8, 0x0B#8, 0x8C#8, 0x00#8, 0xF9#8, 0xFF#8, 0x8C#8, 0x3C#8, 0xF8#8, 0xC6#8, 0x70#8, 0x17#8]))) =
      some (.val 27504#16, .val (-1000), .val 6000#16, 3#4) := by decide

/-- 20_memory.md R62: a short read is a failure, V-E22. -/
theorem test_iCala_short : out (fun t => t.rd.rsp.headBits) (exec .iCala (answered 2#4 (rsp true [0x70#8]))) =
    some (.val 0x403) := by decide

/-- V-D7. -/
theorem test_iCalb : out (fun t => (t.rd.cal.h1, t.rd.seq)) (exec .iCalb (answered 3#4 (rsp true [0x4B#8]))) =
    some (.val 75#8, 4#4) := by decide

/-- V-D15: both 12-bit fields are sign-extended. -/
theorem test_iCalc :
    out (fun t => (t.rd.cal.h4, t.rd.cal.h5, t.rd.seq))
      (exec .iCalc (answered 4#4 (rsp true [0x00#8, 0x00#8, 0x00#8, 0xFF#8, 0x0F#8, 0xFF#8, 0x00#8]))) =
      some (.val (-1), .val (-16), 5#4) := by decide

/-- V-E10: the request of `I_WHUM`. -/
theorem test_iWhum : out (fun t => t.bus.inFlight.map (fun q => reqBits q % 2 ^ 32)) (exec .iWhum (atSeq 5#4)) =
    some [0x0101F2ED] := by decide

/-- V-E11, V-E23. -/
theorem test_iWmeas :
    out (fun t => t.bus.inFlight.map (fun q => reqBits q % 2 ^ 32)) (exec .iWmeas (atSeq 6#4)) = some [0x2701F4ED] ∧
    out (fun t => t.rd.rsp.headBits) (exec .iWmeas (answered 6#4 (rsp false []))) = some (.val 0x603) := by decide

/-- V-E12; a write reported done goes on, whatever bytes come with it. -/
theorem test_iWcfg :
    out (fun t => t.bus.inFlight.map (fun q => reqBits q % 2 ^ 32)) (exec .iWcfg (atSeq 7#4)) = some [0xA001F5ED] ∧
    out (fun t => t.rd.seq) (exec .iWcfg (answered 7#4 (rsp true [0x55#8]))) = some 8#4 := by decide

/-- V-E20. -/
theorem test_iDone : out (fun t => (t.rd.rsp.headBits, t.rd.dstate)) (exec .iDone (atSeq 8#4)) =
    some (.val 0x3, .ready) := by decide

/-! ## Steps of READ -/

/-- V-E24: `ReadFailed` returns to `READY`. -/
theorem test_rData : out (fun t => (t.rd.rsp.headBits, t.rd.dstate)) (exec .rData (answered 9#4 (rsp false []))) =
    some (.val 0x805, .ready) := by decide

/-- V-U7. -/
theorem test_rUnpk :
    out (fun t => (t.rd.rawP, t.rd.rawT, t.rd.rawH))
      (exec .rUnpk (let s := atSeq 10#4
        s.withRd { s.rd with xbuf := [0x12#8, 0x34#8, 0x56#8, 0x78#8, 0x9A#8, 0xBC#8, 0xDE#8, 0xF0#8].map Reg.val })) =
      some (.val 74565#20, .val 493995#20, .val 57072#16) := by decide

/-- V-T7: wraparound in the linear stage. -/
theorem test_rCmpt : compT cfg 0#16 32767#16 0#16 1048575#20 = (-80, -2) := by decide

/-- `R_CMPT` without calibration is a fault by name (10_state.md R22). -/
theorem test_rCmpt_unspec : stop (exec .rCmpt (atSeq 11#4)) = some (.inl (.unspecRegister (.cal 0))) := by decide

/-- V-P4 (negative denominator), V-P3 (zero denominator). -/
theorem test_rCmpp :
    compP cfg ⟨36477, 0, -32768, 2855, 140, -7, 15500, -14600, 6000⟩ 1178000#32 415148#20 = 3873362915#32 ∧
    compP cfg ⟨36477, 0, -32768, 2855, 140, -7, 15500, -14600, 6000⟩ 1176576#32 415148#20 = 0#32 := by decide

/-- V-P9: the last value is cut to 32 bits. -/
theorem test_rCmpp_cut : compP cfg ⟨1, 0, 0, 0, 0, 0, 0, 0, 0⟩ 128000#32 0#20 = 2684354560#32 := by decide

/-- V-H10, V-H3 (clamped high), V-H2 (clamped low). -/
theorem test_rCmph :
    compH cfg ⟨0, 32767, 0, -2048, 0, 0⟩ 76800#32 65535#16 = 1024#32 ∧
    compH cfg ⟨75, 367, 0, 301, 50, 30⟩ 128422#32 65535#16 = 102400#32 ∧
    compH cfg ⟨75, 367, 0, 301, 50, 30⟩ 128422#32 0#16 = 0#32 := by decide

/-- V-C4, V-C7. -/
theorem test_rCvt :
    (cvtT cfg (-14088), cvtP cfg 33608192#32, cvtH cfg 0#32) = (0xC30CE148#32, 0x44A41A3D#32, 0x00000000#32) ∧
    (cvtT cfg (-23040), cvtP cfg 16777217#32, cvtH cfg 1024#32) = (0xC3666666#32, 0x4423D70A#32, 0x3F800000#32) := by
  decide

/-- V-E28: all 209 bits of the response. -/
theorem test_rDone :
    out (fun t => (t.rd.rsp.wordBits, t.rd.dstate))
      (exec .rDone (let s := atSeq 15#4
        s.withRd { s.rd with
          tf := .val 0x41C8A3D7#32, pf := .val 0x447BA214#32, hf := .val 0x42704F00#32
          tint := .val 2508#32, pint := .val 25767233#32, hint := .val 61519#32 })) =
      some (.val 0x1E09E03125A820000139884E09E0088F74428839147AE0005, .ready) := by decide

/-- 41_sequencer.md R143: a response nobody awaits is discarded. -/
theorem test_idle : out (fun t => t.bus.busrsp) (exec .idle (s0.withBus { s0.bus with busrsp := some (rsp true []) })) =
    some none := by decide

/-! ## Steps of PARSE -/

theorem test_pIdle : out (fun t => t.sp.pseq) (exec .pIdle s0) = some 0#3 := by decide

/-- V-E31: `$GPRMC,` has another prefix; the exact prefix passes (44_parser.md R233). -/
theorem test_pPfx :
    out (fun t => t.sp.prsp.headBits) (exec .pPfx (atPseq 1#3 [0x24#8, 0x47#8, 0x50#8, 0x52#8, 0x4D#8, 0x43#8, 0x2C#8])) =
      some (.val 0xA07) ∧
    out (fun t => t.sp.pseq) (exec .pPfx (atPseq 1#3 [0x24#8, 0x47#8, 0x50#8, 0x47#8, 0x47#8, 0x41#8, 0x2C#8])) =
      some 2#3 := by decide

/-- 44_parser.md R234: 100 characters lose the last; the terminator stands at index 99. -/
theorem test_pCopy :
    out (fun t => (t.sp.wlen, regAt t.sp.wbuf 98, regAt t.sp.wbuf 99))
      (exec .pCopy (atPseq 2#3 (List.replicate 99 0x41#8 ++ [0x42#8]))) =
      some (.val 99, .val 0x41#8, .val 0x00#8) := by decide

/-- V-S3: `a,,b,`. -/
theorem test_pSplit :
    out (fun t => (t.sp.nf, t.sp.fs.take 4, t.sp.fl.take 4))
      (exec .pSplit (let s := atPseq 3#3 []
        s.withSp { s.sp with
          wlen := .val 5, wbuf := overwrite [0x61#8, 0x2C#8, 0x2C#8, 0x62#8, 0x2C#8, 0x00#8] s.sp.wbuf })) =
      some (.val 4, [.val 0, .val 2, .val 3, .val 5], [.val 1, .val 0, .val 1, .val 0]) := by decide

/-- 44_parser.md R236: seven fields fail (V-E31), eight pass. -/
theorem test_pCnt :
    out (fun t => t.sp.prsp.headBits) (exec .pCnt (let s := atPseq 4#3 []; s.withSp { s.sp with nf := .val 7 })) =
      some (.val 0xC07) ∧
    out (fun t => t.sp.pseq) (exec .pCnt (let s := atPseq 4#3 []; s.withSp { s.sp with nf := .val 8 })) = some 5#3 := by
  decide

/-- 44_parser.md R238, R239: `4807.038`, `.5`, `-1`, `2147483648`. -/
theorem test_number_scans :
    scanFrac cfg [0x34#8, 0x38#8, 0x30#8, 0x37#8, 0x2E#8, 0x30#8, 0x33#8, 0x38#8] = ⟨4807038, 3⟩ ∧
    scanFrac cfg [0x2E#8, 0x35#8] = ⟨5, 1⟩ ∧ scanInt cfg [0x2D#8, 0x31#8] = 0#32 ∧
    scanInt cfg [0x32#8, 0x31#8, 0x34#8, 0x37#8, 0x34#8, 0x38#8, 0x33#8, 0x36#8, 0x34#8, 0x38#8] = 0x7FFFFFFF#32 := by
  decide

/-- A working buffer with the text `,,5,S,6,W,1,08` and its fields (44_parser.md R237). -/
def scanned : State :=
  let s := atPseq 5#3 []
  s.withSp { s.sp with
    wlen := .val 14
    wbuf := overwrite [0x2C#8, 0x2C#8, 0x35#8, 0x2C#8, 0x53#8, 0x2C#8, 0x36#8, 0x2C#8, 0x57#8, 0x2C#8, 0x31#8, 0x2C#8,
      0x30#8, 0x38#8, 0x00#8] s.sp.wbuf
    nf := .val 8
    fs := [0, 1, 2, 4, 6, 8, 10, 12].map Reg.val
    fl := [0, 0, 1, 1, 1, 1, 1, 2].map Reg.val }

theorem test_pScan :
    out (fun t => (t.sp.latq, t.sp.hlat, t.sp.lonq)) (exec .pScan scanned) =
      some (.val ⟨5, 0⟩, .val (some 0x53#8), .val ⟨6, 0⟩) ∧
    out (fun t => (t.sp.hlon, t.sp.qual, t.sp.sats)) (exec .pScan scanned) =
      some (.val (some 0x57#8), .val 1#32, .val 8#32) := by decide

/-- 44_parser.md R242: 9000 S is -90.0, a zero magnitude W is plus zero. -/
theorem test_pConv :
    out (fun t => (t.sp.lat, t.sp.lon))
      (exec .pConv (let s := atPseq 6#3 []
        s.withSp { s.sp with
          latq := .val ⟨9000, 0⟩, hlat := .val (some 0x53#8), lonq := .val ⟨0, 2⟩, hlon := .val (some 0x57#8) })) =
      some (.val 0xC2B40000#32, .val 0x00000000#32) := by decide

/-- V-E30: all 145 bits of the response. -/
theorem test_pDone :
    out (fun t => t.sp.prsp.wordBits)
      (exec .pDone (let s := atPseq 7#3 []
        s.withSp { s.sp with
          lat := .val 0x4240781D#32, lon := .val 0x41384444#32, qual := .val 1#32, sats := .val 8#32 })) =
      some (.val 0x1000000002827088888480F03A0007) := by decide

/-! ## The collaborator -/

/-- 20_memory.md R62: the answer to the outstanding request arrives on the port. -/
theorem test_rd :
    out (fun t => (t.bus.busrsp, t.bus.inFlight))
      (exec (.rd 0x76#7 0xD0#8 1#8 0#8 7) (held (readReq cfg 0xD0#8 1) (rsp true [0x60#8]))) =
      some (some (rsp true [0x60#8]), []) := by decide

/-- 10_state.md R39: a write reported done is in the sensor's register, a failed one is not (log 11). -/
theorem test_wr :
    out (fun t => Memory.read t.bus.sensor.regs 0xF2)
      (exec (.wr 0x76#7 0xF2#8 1#8 0x01#8 7) (held (writeReq cfg 0xF2#8 0x01#8) (rsp true []))) = some (some 0x01#8) ∧
    out (fun t => Memory.read t.bus.sensor.regs 0xF2)
      (exec (.wr 0x76#7 0xF2#8 1#8 0x01#8 7) (held (writeReq cfg 0xF2#8 0x01#8) (rsp false []))) = some none := by decide

/-! ## Witnesses: states and operands that meet the hypotheses of the statements -/

open Sys2Proof.Expect

/-- Operands at the ends of what the encodings admit. -/
theorem witness_DecodeEncodeRoundTrip :
    (Instr.parse (List.replicate 255 0x41#8)).wellFormed 32 = true ∧
    (Instr.rd 0x7F#7 0xFF#8 24#8 0#8 255).wellFormed 8 = true ∧
    (Instr.wr 0x00#7 0x00#8 1#8 0xFF#8 0).wellFormed 0 = true := by decide +kernel

/-- A word on `CMD` at a host turn, at step `v`. -/
def onCmd (v : BitVec 4) (d : DState) (word : Byte) : State :=
  (s0.withRd { s0.rd with seq := v, dstate := d }).withEnv { s0.env with turns := [.host], cmdIn := [word] }

theorem witness_CommandAcceptance_busy :
    nextTurn (onCmd 15#4 .reading 0x01#8) = .host ∧ (onCmd 15#4 .reading 0x01#8).env.cmdIn = 0x01#8 :: [] ∧
    (onCmd 15#4 .reading 0x01#8).rd.seq ≠ 0#4 := by decide
theorem witness_CommandAcceptance_ready :
    nextTurn (onCmd 0#4 .ready 0xFF#8) = .host ∧ (onCmd 0#4 .ready 0xFF#8).env.cmdIn = 0xFF#8 :: [] ∧
    (onCmd 0#4 .ready 0xFF#8).rd.seq = 0#4 ∧ (onCmd 0#4 .ready 0xFF#8).rd.dstate = .ready := by decide
theorem witness_CommandAcceptance_uninit :
    nextTurn (onCmd 0#4 .uninit 0x00#8) = .host ∧ (onCmd 0#4 .uninit 0x00#8).env.cmdIn = 0x00#8 :: [] ∧
    (onCmd 0#4 .uninit 0x00#8).rd.seq = 0#4 ∧ (onCmd 0#4 .uninit 0x00#8).rd.dstate = .uninit := by decide

/-- A message on `PCMD` at a turn of the host, at step `v`. -/
def onPcmd (v : BitVec 3) (bytes : List Byte) : State :=
  (s0.withSp { s0.sp with pseq := v }).withEnv { s0.env with turns := [.hostSp], pcmdIn := bytes }

theorem witness_sentence_whole : IsSentenceOf [] [] ∧ IsSentenceOf [0x41#8] [0x41#8] :=
  ⟨⟨by decide, .inl rfl⟩, ⟨by decide, .inl rfl⟩⟩
theorem witness_sentence_cut : IsSentenceOf [0x41#8] [0x41#8, 0x00#8, 0x42#8] ∧ IsSentenceOf [] [0x00#8] :=
  ⟨⟨by decide, .inr ⟨[0x42#8], rfl⟩⟩, ⟨by decide, .inr ⟨[], rfl⟩⟩⟩
theorem witness_SentenceAcceptance :
    (nextTurn (onPcmd 7#3 [0x03#8, 0x00#8]) = .hostSp ∧ (onPcmd 7#3 [0x03#8, 0x00#8]).sp.pseq ≠ 0#3) ∧
    nextTurn (onPcmd 0#3 [0x02#8, 0x01#8, 0x41#8]) = .hostSp ∧
    (onPcmd 0#3 [0x02#8, 0x01#8, 0x41#8]).env.pcmdIn = 0x02#8 :: 0x01#8 :: ([0x41#8] ++ []) ∧
    [0x41#8].length = (0x01#8 : Byte).toNat ∧ (onPcmd 0#3 [0x02#8, 0x01#8, 0x41#8]).sp.pseq = 0#3 := by decide

theorem witness_InitAndReadTaken : s0.rd.seq = 0#4 ∧ s0.rd.dstate = .uninit ∧ s0.rd.dstate ≠ .ready ∧
    (onCmd 0#4 .ready 0x01#8).rd.seq = 0#4 ∧ (onCmd 0#4 .ready 0x01#8).rd.dstate = .ready := by decide
theorem witness_ParseTaken : s0.sp.pseq = 0#3 := by decide

/-- At step `v` with its request outstanding and no response yet. -/
def waiting (v : BitVec 4) (q : BusReq) : State :=
  let s := atSeq v
  (s.withRd { s.rd with buspend := true, busreqR := .val q }).withBus { s.bus with inFlight := [q] }

theorem witness_TransferHalves_issue :
    stepRequest (atSeq 2#4).cfg (atSeq 2#4).rd.seq = some (readReq cfg 0x88#8 24) ∧
    (readReq cfg 0x88#8 24).reg.toNat + (readReq cfg 0x88#8 24).len.toNat ≤ 256 ∧ (atSeq 2#4).rd.buspend = false := by
  decide
theorem witness_TransferHalves_wait :
    stepRequest (waiting 9#4 (readReq cfg 0xF7#8 8)).cfg (waiting 9#4 (readReq cfg 0xF7#8 8)).rd.seq =
      some (readReq cfg 0xF7#8 8) ∧
    (readReq cfg 0xF7#8 8).reg.toNat + (readReq cfg 0xF7#8 8).len.toNat ≤ 256 ∧
    (waiting 9#4 (readReq cfg 0xF7#8 8)).rd.buspend = true ∧
    (waiting 9#4 (readReq cfg 0xF7#8 8)).bus.busrsp = none := by decide
theorem witness_TransferHalves_complete :
    stepRequest (answered 7#4 (rsp false [])).cfg (answered 7#4 (rsp false [])).rd.seq = some (writeReq cfg 0xF5#8 0xA0#8) ∧
    (writeReq cfg 0xF5#8 0xA0#8).reg.toNat + (writeReq cfg 0xF5#8 0xA0#8).len.toNat ≤ 256 ∧
    (answered 7#4 (rsp false [])).rd.buspend = true ∧ (answered 7#4 (rsp false [])).bus.busrsp = some (rsp false []) := by decide

/-- The hypotheses of `IdentityStep`, `BlockAStep`, `BlockBStep`, `BlockCStep`, `ConfigurationWrites`, `DataStep`: nothing
outstanding, and a response present. -/
theorem witness_transfer_steps : (∀ v, (atSeq v).rd.buspend = false) ∧
    (∀ v r, (answered v r).rd.buspend = true ∧ (answered v r).bus.busrsp = some r) :=
  ⟨fun _ => rfl, fun _ _ => ⟨rfl, rfl⟩⟩
/-- Both outcomes of the offset check in `BlockAStep`, `BlockCStep`, `DataStep`, at the boundary. -/
theorem witness_offsets :
    (0xE8#8 : Byte).toNat + 24 ≤ 256 ∧ ¬(0xE9#8 : Byte).toNat + 24 ≤ 256 ∧ (0xF9#8 : Byte).toNat + 7 ≤ 256 ∧
    ¬(0xFA#8 : Byte).toNat + 7 ≤ 256 ∧ (0xF8#8 : Byte).toNat + 8 ≤ 256 ∧ ¬(0xF9#8 : Byte).toNat + 8 ≤ 256 := by decide
theorem witness_ConfigurationWrites :
    ((Instr.iWhum, s0.cfg.ctrlHumReg, s0.cfg.ctrlHumVal, 6#4) : Instr × Byte × Byte × BitVec 4) =
      (.iWhum, s0.cfg.ctrlHumReg, s0.cfg.ctrlHumVal, 6#4) := rfl

/-- A calibration file with values in it (V-D1, V-D7, V-D8). -/
def sampleA : BlockA := ⟨27504, 26435, -1000, 36477, -10685, 3024, 2855, 140, -7, 15500, -14600, 6000⟩
def sampleC : BlockC := ⟨367, 0, 301, 50, 30⟩

/-- A `READ` in progress at step `v`, with every register of it written. -/
def reading (v : BitVec 4) : State :=
  let s := atSeq v
  s.withRd { s.rd with
    xbuf := [0x65#8, 0x5A#8, 0xC0#8, 0x7E#8, 0xED#8, 0x00#8, 0x75#8, 0x30#8].map Reg.val ++ s.rd.xbuf.drop 8
    cal := fullCal sampleA 75#8 sampleC
    rawP := .val 415148#20, rawT := .val 519888#20, rawH := .val 30000#16, tfine := .val 128422#32
    tint := .val 2508#32, pint := .val 25767233#32, hint := .val 61519#32
    tf := .val 0x41C8A3D7#32, pf := .val 0x447BA214#32, hf := .val 0x42704F00#32 }

theorem witness_UnpackStep : (reading 10#4).rd.xbuf.take 8 =
    [0x65#8, 0x5A#8, 0xC0#8, 0x7E#8, 0xED#8, 0x00#8, 0x75#8, 0x30#8].map Reg.val := by decide
theorem witness_TemperatureStep : (reading 11#4).rd.cal.t1 = .val 27504#16 ∧ (reading 11#4).rd.cal.t2 = .val 26435#16 ∧
    (reading 11#4).rd.cal.t3 = .val (-1000 : BitVec 16) ∧ (reading 11#4).rd.rawT = .val 519888#20 := by decide
/-- `PressureStep` and `HumidityStep`: the fields of the sample calibration stand in `CAL`. -/
theorem witness_PressureStep : (reading 12#4).rd.cal = fullCal sampleA 75#8 sampleC ∧
    (reading 12#4).rd.tfine = .val 128422#32 ∧ (reading 12#4).rd.rawP = .val 415148#20 ∧
    (reading 12#4).rd.rawH = .val 30000#16 := ⟨rfl, rfl, rfl, rfl⟩
theorem witness_ScaleStep_ReadDone : (reading 14#4).rd.tint = .val 2508#32 ∧
    (reading 14#4).rd.pint = .val 25767233#32 ∧ (reading 14#4).rd.hint = .val 61519#32 ∧
    (reading 15#4).rd.tf = .val 0x41C8A3D7#32 ∧ (reading 15#4).rd.pf = .val 0x447BA214#32 ∧
    (reading 15#4).rd.hf = .val 0x42704F00#32 ∧ cfg.fmt = .spec := by decide
theorem witness_IdleSteps : s0.rd.seq = 0#4 ∧ s0.sp.pseq = 0#3 := by decide

theorem witness_PrefixStep_CopyStep : (atPseq 1#3 [0x24#8]).sp.sent = .val [0x24#8] ∧
    (0x00#8 : Byte) ∉ [0x24#8] := by decide
theorem witness_SplitStep :
    let t := [0x2C#8, 0x2C#8, 0x35#8, 0x2C#8, 0x53#8, 0x2C#8, 0x36#8, 0x2C#8, 0x57#8, 0x2C#8, 0x31#8, 0x2C#8, 0x30#8, 0x38#8]
    holdsText scanned.cfg.bufCap scanned.sp t ∧ scanned.sp.wbuf.length = scanned.cfg.bufCap :=
  ⟨⟨by decide, by decide, by decide, by decide⟩, by decide⟩
theorem witness_CountStep : scanned.sp.nf = .val 8 ∧ ¬8 < 8 ∧ 7 < 8 := by decide
theorem witness_ScanStep : ∀ j f, (j, f) ∈ [(2, [0x35#8]), (3, [0x53#8]), (4, [0x36#8]), (5, [0x57#8]), (6, [0x31#8]),
      (7, [0x30#8, 0x38#8])] →
    ∃ a, regAt scanned.sp.fs j = .val a ∧ regAt scanned.sp.fl j = .val f.length ∧
      a + f.length ≤ scanned.sp.wbuf.length ∧ (scanned.sp.wbuf.drop a).take f.length = f.map Reg.val := by
  intro j f h
  simp only [List.mem_cons, Prod.mk.injEq, List.not_mem_nil, or_false] at h
  rcases h with ⟨rfl, rfl⟩ | ⟨rfl, rfl⟩ | ⟨rfl, rfl⟩ | ⟨rfl, rfl⟩ | ⟨rfl, rfl⟩ | ⟨rfl, rfl⟩
  · exact ⟨2, by decide⟩
  · exact ⟨4, by decide⟩
  · exact ⟨6, by decide⟩
  · exact ⟨8, by decide⟩
  · exact ⟨10, by decide⟩
  · exact ⟨12, by decide⟩

/-- A `PARSE` with its results ready. -/
def parsed : State :=
  let s := atPseq 7#3 []
  s.withSp { s.sp with
    latq := .val ⟨9000, 0⟩, hlat := .val (some 0x53#8), lonq := .val ⟨0, 2⟩, hlon := .val none
    lat := .val 0xC2B40000#32, lon := .val 0#32, qual := .val 1#32, sats := .val 8#32 }

/-- `scanned` with the last byte of its text holding no value. -/
def holed : State :=
  scanned.withSp { scanned.sp with wbuf := scanned.sp.wbuf.set 13 .unspec }
/-- `s` with a response nobody asked for about to arrive. -/
def stray (s : State) : State := s.withEnv { s.env with turns := [.busUnasked], answers := [rsp true [0x60#8]] }

theorem witness_ConvertStep_ParseDone : parsed.sp.latq = .val ⟨9000, 0⟩ ∧ parsed.sp.hlat = .val (some 0x53#8) ∧
    parsed.sp.lonq = .val ⟨0, 2⟩ ∧ parsed.sp.hlon = .val none ∧ parsed.sp.lat = .val 0xC2B40000#32 ∧
    parsed.sp.lon = .val 0#32 ∧ parsed.sp.qual = .val 1#32 ∧ parsed.sp.sats = .val 8#32 := by decide

/-- Each stop of `StopsByName` that is not an operand: a busy port of either unit, the two driver states, a stray
response with and without a request outstanding. -/
theorem witness_StopsByName :
    (atSeq 15#4).rd.seq ≠ 0#4 ∧ (atPseq 7#3 []).sp.pseq ≠ 0#3 ∧
    (onCmd 0#4 .initializing 0x01#8).rd.seq = 0#4 ∧ (onCmd 0#4 .initializing 0x01#8).rd.dstate = .initializing ∧
    (onCmd 0#4 .reading 0x01#8).rd.dstate = .reading ∧
    nextTurn (stray s0) = .busUnasked ∧ (stray s0).rd.buspend = false ∧
    nextTurn (stray (waiting 2#4 (readReq cfg 0x88#8 24))) = .busUnasked ∧
    (stray (waiting 2#4 (readReq cfg 0x88#8 24))).rd.buspend = true := by decide
/-- A step of every kind with an operand that holds no value, at the first and the last of its registers. -/
theorem witness_StopsByName_lacks :
    Lacks s0 .rUnpk .xbuf ∧ Lacks s0 .rCmpt (.cal 0) ∧ Lacks s0 .rCmpt .rawT ∧ Lacks s0 .rCmpp (.cal 11) ∧
    Lacks s0 .rCmph (.cal 17) ∧ Lacks s0 .rCvt .hint ∧ Lacks s0 .rDone .tf ∧ Lacks s0 .pPfx .sent ∧
    Lacks s0 .pCopy .sent ∧ Lacks s0 .pSplit .wlen ∧ Lacks s0 .pCnt .nf ∧ Lacks s0 .pScan (.fs 2) ∧
    Lacks s0 .pScan (.fl 7) ∧ Lacks s0 .pConv .hlon ∧ Lacks s0 .pDone .sats ∧ Lacks holed .pSplit .wbuf ∧
    Lacks holed .pScan .wbuf :=
  ⟨.inr (.inl ⟨rfl, rfl, 7, by decide, rfl⟩), .inl (by decide), .inl (by decide), .inl (by decide), .inl (by decide),
    .inl (by decide), .inl (by decide), .inl (by decide), .inl (by decide), .inl (by decide), .inl (by decide),
    .inr (.inr (.inr ⟨rfl, 2, by decide, by decide, .inl ⟨rfl, rfl⟩⟩)),
    .inr (.inr (.inr ⟨rfl, 7, by decide, by decide, .inr (.inl ⟨rfl, rfl⟩)⟩)), .inl (by decide), .inl (by decide),
    .inr (.inr (.inl ⟨rfl, rfl, 14, 13, rfl, by decide, rfl⟩)),
    .inr (.inr (.inr ⟨rfl, 7, by decide, by decide, .inr (.inr ⟨rfl, 12, 2, 1, rfl, rfl, by decide, rfl⟩)⟩))⟩
/-- 10_state.md R22: the fault names the register without a value, here a byte of field 7 in `WBUF`. -/
theorem test_pScan_unspec_byte : stop (exec .pScan holed) = some (.inl (.unspecRegister .wbuf)) := by decide
/-- After a reset the collaborator still holds a request, and answers it while `INIT` is at step 1 with nothing issued. -/
def late (v : BitVec 4) : State :=
  (s0.withRd { s0.rd with seq := v, dstate := if v = 0#4 then .uninit else .initializing }).withBus
    { s0.bus with inFlight := [readReq cfg 0xF7#8 8] }
/-- 70_reset_and_hazards.md R301, U6: the late answer is ignored by the idle unit and refused once a command runs. -/
theorem test_late_answer :
    out (fun t => (t.rd, t.bus.inFlight))
      (step ((late 0#4).withEnv { s0.env with turns := [.bus], answers := [rsp false []] })) = some (s0.rd, []) ∧
    stop (step ((late 1#4).withEnv { s0.env with turns := [.bus], answers := [rsp false []] })) =
      some (.inr .lateAnswer) := by decide
/-- 20_memory.md R80 (c), U4: a stray response. -/
theorem test_stray_response : out (fun t => t.bus) (step (stray s0)) = some s0.bus ∧
    stop (step (stray (waiting 2#4 (readReq cfg 0x88#8 24)))) = some (.inr .answeredTwice) := by decide

/-- The cases of `ReadRequestAnswered` and `WriteRequestAnswered`, with the offset check at its boundary. -/
theorem witness_requests_answered :
    s0.env.answers = [] ∧ (held (readReq cfg 0xF7#8 8) (rsp true [])).env.answers = (rsp true []) :: [] ∧
    (held (readReq cfg 0xF7#8 8) (rsp true [])).rd.buspend = true ∧
    (held (readReq cfg 0xF7#8 8) (rsp true [])).bus.inFlight.tail = [] ∧
    (0xF8#8 : Byte).toNat + (8#8 : Byte).toNat ≤ 256 ∧ 256 < (0xF9#8 : Byte).toNat + (8#8 : Byte).toNat ∧
    (0x76#7 : BitVec 7) = (held (writeReq cfg 0xF5#8 1#8) (rsp true [])).cfg.devAddr := by decide
/-- The clauses of `WriteRequestAnswered`: nothing outstanding; an older request behind; a response on the port; and the
two cases of the measurement-control register. -/
theorem witness_WriteRequestAnswered :
    (stray s0).env.answers = (rsp true [0x60#8]) :: [] ∧ (stray s0).rd.buspend = false ∧
    (stray s0).rd.seq = 0#4 ∧ (atSeq 1#4).rd.buspend = false ∧ (atSeq 1#4).rd.seq ≠ 0#4 ∧
    (stray (answered 1#4 (rsp true []))).rd.buspend = true ∧ (stray (answered 1#4 (rsp true []))).bus.inFlight.tail = [] ∧
    (stray (answered 1#4 (rsp true []))).bus.busrsp ≠ none ∧
    (issue (readReq cfg 0xD0#8 1) (held (readReq cfg 0xD0#8 1) (rsp true []))).bus.inFlight.tail ≠ [] ∧
    (issue (readReq cfg 0xD0#8 1) (held (readReq cfg 0xD0#8 1) (rsp true []))).rd.buspend = true ∧
    Memory.read s0.bus.sensor.regs cfg.ctrlHumReg.toNat = none ∧
    Memory.read (s0.bus.sensor.write cfg 0xF2#8 0x01#8).regs cfg.ctrlHumReg.toNat = some 0x01#8 := by decide
theorem witness_HumidityLatch : cfg.ctrlHumReg ≠ cfg.ctrlMeasReg := by decide

/-- The ranges of `ArithPrimitives`: the largest shifts, the wrapped quotient. -/
theorem witness_ArithPrimitives : 31 ≤ 31 ∧ 63 ≤ 63 ∧ (-1 : Word64) ≠ 0#64 ∧
    (0x8000000000000000#64 : Word64).toInt = -2 ^ 63 ∧ (-1 : Word64).toInt = -1 := by decide
theorem witness_formulas : cfg.compT = .spec ∧ cfg.compP = .spec ∧ cfg.compH = .spec := by decide
theorem witness_HumidityBounds : cfg.fmt = .spec ∧ (102400#32 : Word32).toNat ≤ 102400 := by decide
/-- `PressureZeroDenominator`: the two default clauses (V-P2, V-P3). -/
theorem witness_PressureZeroDenominator :
    cfg.compP = .spec ∧ presDen ⟨0, -10685, 3024, 2855, 140, -7, 15500, -14600, 6000⟩ 128422#32 = 0#64 ∧
    (-32768 : BitVec 16) = 0x8000#16 := by decide
/-- `RoundToNearest`: positive operands on both sides of the threshold, and at it. -/
theorem witness_RoundToNearest :
    0 < 1 ∧ ((1 : Nat) : ℚ) / (1 : Nat) < 2 ^ 128 - 2 ^ 103 ∧
    (2 : ℚ) ^ 128 - 2 ^ 103 ≤ ((2 ^ 128 - 2 ^ 103 : Nat) : ℚ) / (1 : Nat) := by norm_num
theorem witness_DecodeBijection : (List.replicate 7 0x80#8).length = 7 ∧ (-2048 : BitVec 16).toInt = -2048 ∧
    (2047 : BitVec 16).toInt = 2047 := by decide
/-- The default bodies that `RoundToNearest`, `CalibrationFieldValues`, `DecodeBijection`, `SplitFields`, `NumericText`,
`ConvCoordValue` and `ScaleStep` take as premises. -/
theorem witness_default_bodies : cfg.fmt = .spec ∧ cfg.decA = .spec ∧ cfg.decB = .spec ∧ cfg.decC = .spec ∧
    cfg.split = .spec ∧ cfg.scanFrac = .spec ∧ cfg.scanInt = .spec ∧ cfg.conv = .spec ∧
    (0xFF7FFFFF#32 : Word32).toNat % 2 ^ 31 < 0x7F800000 ∧ 0 < 100 := by decide
theorem witness_SplitFields : (splitText cfg [0x2C#8])[0]? = some (0, 0) ∧
    (splitText cfg [0x2C#8])[1]? = some (1, 0) ∧ cfg.split = .spec ∧
    (0, 1) ∈ splitText cfg [0x41#8] ∧ (∀ f ∈ (splitText cfg [0x41#8]).take 8, f.2 ≠ 0) := by decide
/-- 93_implementation_defined.md U7, U8: another reading of `A,B`, `4807.038`, `.` and `2147483647` is the default
one. -/
theorem test_readings_agree :
    let other := { cfg with split := .other 0, scanFrac := .other 0, scanInt := .other 0 }
    splitText other [0x41#8, 0x2C#8, 0x42#8] = [(0, 1), (2, 1)] ∧
    scanFrac other [0x34#8, 0x38#8, 0x30#8, 0x37#8, 0x2E#8, 0x30#8, 0x33#8, 0x38#8] = ⟨4807038, 3⟩ ∧
    scanFrac other [0x2E#8] = ⟨0, 0⟩ ∧
    scanInt other [0x32#8, 0x31#8, 0x34#8, 0x37#8, 0x34#8, 0x38#8, 0x33#8, 0x36#8, 0x34#8, 0x37#8] = 0x7FFFFFFF#32 := by
  decide
theorem witness_NumericText : IsDigit 0x30#8 ∧ IsDigit 0x39#8 ∧ ¬IsDigit 0x2F#8 ∧ ¬IsDigit 0x3A#8 ∧
    ¬IsDigit 0x2E#8 ∧ decValue [0x39#8] < 2 ^ 31 := by
  simp [IsDigit, decValue]
theorem witness_ConvCoordValue : rat ⟨0, 3⟩ = 0 ∧ rat ⟨4807038, 3⟩ ≠ 0 := by norm_num [rat]
theorem witness_ConvSignLaw : cfg.conv = .spec ∧ cfg.fmt = .spec ∧ (2 : ℚ) ^ (-120 : Int) ≤ rat ⟨1, 36⟩ ∧
    rat ⟨0, 0⟩ = 0 ∧ 0 < rat ⟨1, 50⟩ := by
  refine ⟨rfl, rfl, ?_, ?_, ?_⟩ <;> norm_num [rat]

/-- The five clauses of `StepRunsDecodedInstruction`. -/
theorem witness_StepRunsDecodedInstruction :
    (nextTurn (onCmd 0#4 .uninit 0x01#8) = .host ∧
      decode 32 .cmd8 (onCmd 0#4 .uninit 0x01#8).env.cmdIn = .ok (.init, [])) ∧
    (nextTurn (onPcmd 0#3 [0x03#8, 0x00#8]) = .hostSp ∧
      decode 32 .pcmdv (onPcmd 0#3 [0x03#8, 0x00#8]).env.pcmdIn = .ok (.parse [], [])) ∧
    (nextTurn (reading 15#4) = .rd ∧
      decode 32 .seq4 [(reading 15#4).rd.seq.setWidth 8] = .ok (.rDone, [])) ∧
    (nextTurn parsed = .sp ∧ decode 32 .pseq3 [parsed.sp.pseq.setWidth 8] = .ok (.pDone, [])) ∧
    (nextTurn (held (readReq cfg 0xD0#8 1) (rsp true [])) = .bus ∧
      (held (readReq cfg 0xD0#8 1) (rsp true [])).bus.inFlight = readReq cfg 0xD0#8 1 :: [] ∧
      instrOfReq (readReq cfg 0xD0#8 1) = .rd 0x76#7 0xD0#8 1#8 0#8 7) := by decide
/-- Reset in the middle of a `READ`. -/
def resetting : State := (reading 12#4).withEnv { s0.env with turns := [.rst] }
theorem witness_ResetLeaves : nextTurn resetting = .rst := by decide

/-- A state of the invariant in which the unit awaits block A. -/
theorem witness_inv : Inv (waiting 2#4 (readReq cfg 0x88#8 24)) where
  rd := by
    constructor <;> simp [waiting, atSeq, s0, State.reset, State.withRd, State.withBus, RdUnit.reset, Memory.wf] <;>
      try decide
    left
    rfl
  sp := by
    constructor <;> simp [waiting, atSeq, s0, State.reset, State.withRd, State.withBus, SpUnit.reset]
    · decide
    · rfl
    · exact .inl rfl
/-- The other hypotheses of `StepKeepsInv` and `StepGoesOn` at that state: a step goes on, with an admitted instance. -/
theorem witness_step_goes_on :
    out (fun t => t.rd.seq) (step (waiting 2#4 (readReq cfg 0x88#8 24))) = some 2#4 ∧ cfg.admitted = true ∧
    (nextTurn (waiting 2#4 (readReq cfg 0x88#8 24))).isHostRead = false ∧
    nextTurn (waiting 2#4 (readReq cfg 0x88#8 24)) ≠ .busUnasked ∧
    (waiting 2#4 (readReq cfg 0x88#8 24)).rd.buspend = true ∧
    (waiting 2#4 (readReq cfg 0x88#8 24)).bus.inFlight.length ≤ 1 := by decide
/-- `UnitsShareNoState`, `CalWrittenOncePerSession`: steps of either unit that go on, in a state R24 allows. -/
theorem witness_units : nextTurn parsed = .sp ∧ out (fun t => t.sp.pseq) (step parsed) = some 0#3 ∧
    nextTurn (reading 12#4) = .rd ∧ out (fun t => t.rd.seq) (step (reading 12#4)) = some 13#4 ∧
    (reading 12#4).rd.dstate = .reading ∧ nextTurn (stray s0) = .busUnasked ∧
    out (fun t => t.env.answers) (step (stray s0)) = some [] := by decide
/-- `CalWrittenOncePerSession`, first clause: a step that does change `CAL`. -/
theorem witness_cal_written :
    out (fun t => t.rd.cal.h1) (step (answered 3#4 (rsp true [0x4B#8]))) = some (.val 75#8) ∧
    nextTurn (answered 3#4 (rsp true [0x4B#8])) = .rd := by decide

/-- The start of `InitRun`. -/
def initStart : State :=
  s0.withEnv { s0.env with
    cmdIn := [0x01#8]
    answers := [(rsp true [0x60#8]), (rsp true (List.replicate 24 0x01#8)), (rsp true [0x4B#8]), (rsp true (List.replicate 7 0x80#8)),
      (rsp true []), (rsp true []), (rsp true [])] }
theorem witness_InitRun : initStart.cfg.admitted = true ∧ initStart.cfg.ctrlHumReg ≠ initStart.cfg.ctrlMeasReg ∧
    initStart.rd.seq = 0#4 ∧ initStart.rd.dstate = .uninit ∧ initStart.rd.buspend = false ∧
    initStart.bus.busrsp = none ∧ initStart.bus.inFlight = [] ∧ initStart.sp.pseq = 0#3 ∧ initStart.env.turns = [] ∧
    initStart.env.cmdIn = 0x01#8 :: [] ∧ initStart.cfg.idValue = 0x60#8 ∧ initStart.env.answers.length = 7 ∧
    (∀ r ∈ initStart.env.answers, r.ok = true) ∧
    initStart.env.answers.map (fun r => r.data.length) = [1, 24, 1, 7, 0, 0, 0] ∧
    (initStart.env.answers.map BusRsp.data).head? = some [0x60#8] := by decide

/-- The start of `ReadRun`. -/
def readStart : State :=
  (s0.withRd { s0.rd with dstate := .ready, cal := fullCal sampleA 75#8 sampleC }).withEnv
    { s0.env with cmdIn := [0x02#8], answers := [(rsp true (List.replicate 8 0xFF#8))] }
theorem witness_ReadRun : readStart.cfg.admitted = true ∧ readStart.rd.seq = 0#4 ∧ readStart.rd.dstate = .ready ∧
    readStart.rd.buspend = false ∧ readStart.bus.busrsp = none ∧ readStart.bus.inFlight = [] ∧
    readStart.sp.pseq = 0#3 ∧ readStart.env.turns = [] ∧ readStart.env.cmdIn = 0x02#8 :: [] ∧
    readStart.rd.cal = fullCal sampleA 75#8 sampleC ∧ (List.replicate 8 0xFF#8).length = 8 ∧
    readStart.env.answers = (rsp true (List.replicate 8 0xFF#8)) :: [] := by decide

/-- The start of `ParseRun` and `ParseIsPure`, of a text and of the same text with more behind its 0x00. -/
def parseStart (bytes : List Byte) : State :=
  s0.withEnv { s0.env with turns := [.hostSp, .sp, .sp, .sp, .sp, .sp, .sp, .sp], pcmdIn := bytes }
theorem witness_ParseRun : (parseStart [0x03#8, 0x01#8, 0x24#8]).sp.pseq = 0#3 ∧
    (parseStart [0x03#8, 0x01#8, 0x24#8]).env.turns = [.hostSp, .sp, .sp, .sp, .sp, .sp, .sp, .sp] ++ [] ∧
    (parseStart [0x03#8, 0x01#8, 0x24#8]).env.pcmdIn = 0x03#8 :: 0x01#8 :: ([0x24#8] ++ []) ∧
    [0x24#8].length = (0x01#8 : Byte).toNat ∧ out (fun t => t.sp.pseq) (step (parseStart [0x03#8, 0x01#8, 0x24#8])) =
      some 1#3 := by decide
theorem witness_ParseIsPure : IsSentenceOf [0x24#8] [0x24#8] ∧ IsSentenceOf [0x24#8] [0x24#8, 0x00#8, 0x41#8] ∧
    8 ≤ s0.cfg.bufCap ∧ (∃ t, Sys2Proof.core.run 8 (parseStart [0x03#8, 0x01#8, 0x24#8]) = .next t) ∧
    (∃ t, Sys2Proof.core.run 8 (parseStart [0x03#8, 0x03#8, 0x24#8, 0x00#8, 0x41#8]) = .next t) :=
  ⟨⟨by decide, .inl rfl⟩, ⟨by decide, .inr ⟨[0x41#8], rfl⟩⟩, by decide, ⟨_, rfl⟩, ⟨_, rfl⟩⟩

/-- `HostReads`: a response with payload, one without, and none. -/
theorem witness_HostReads : rspShape (answer 0x01#8 0x00#8) ∧ rspShape noAnswer ∧ prspShape noAnswerP ∧
    prspShape (answerP 0x03#8 0x05#8) ∧ (answer 0x01#8 0x00#8).valid = true ∧ noAnswer.valid = false ∧
    nextTurn (s0.withEnv { s0.env with turns := [.readRsp .op] }) = .readRsp .op ∧
    nextTurn (s0.withEnv { s0.env with turns := [.readPrsp .lat] }) = .readPrsp .lat :=
  ⟨.inr (.inl ⟨_, _, rfl, by decide⟩), .inl rfl, .inl rfl, .inr (.inl ⟨_, _, rfl, by decide⟩), rfl, rfl, rfl, rfl⟩

end Sys2Proof.Tests
end

-- ==== The integer primitives (00_scope.md R9, R10) ====
section
/-! PROOFS. Each integer primitive as its exact integer value wrapped into range: one lemma per primitive. -/

namespace Sys2Proof.Machine

/-! ## The wraps -/

/-- `wrapS32` picks the representative in the signed 32-bit range (R9). -/
theorem wrapS32_spec (z : Int) : -2 ^ 31 ≤ wrapS32 z ∧ wrapS32 z < 2 ^ 31 ∧ (2 ^ 32 : Int) ∣ z - wrapS32 z :=
  ⟨Int.le_bmod (m := 4294967296) (by decide), Int.bmod_lt (m := 4294967296) (by decide), Int.dvd_self_sub_bmod⟩

/-- `wrapS64` picks the representative in the signed 64-bit range (R9). -/
theorem wrapS64_spec (z : Int) : -2 ^ 63 ≤ wrapS64 z ∧ wrapS64 z < 2 ^ 63 ∧ (2 ^ 64 : Int) ∣ z - wrapS64 z :=
  ⟨Int.le_bmod (m := 18446744073709551616) (by decide), Int.bmod_lt (m := 18446744073709551616) (by decide),
    Int.dvd_self_sub_bmod⟩

/-- `wrapU32` keeps the residue modulo `2 ^ 32`: the unsigned and the signed reading of the 64-bit word differ by a
multiple of `2 ^ 64`. -/
theorem toNat_wrapU32 (a : Word64) : ((wrapU32 a).toNat : Int) = a.toInt % 2 ^ 32 := by
  have ha := BitVec.toInt_eq_toNat_cond a
  rw [wrapU32, BitVec.toNat_setWidth]
  split at ha <;> omega

/-! ## Sums, differences, products -/

@[simp] theorem toInt_add32 (a b : Word32) : (add32 a b).toInt = wrapS32 (a.toInt + b.toInt) := BitVec.toInt_add a b
@[simp] theorem toInt_sub32 (a b : Word32) : (sub32 a b).toInt = wrapS32 (a.toInt - b.toInt) := BitVec.toInt_sub
@[simp] theorem toInt_mul32 (a b : Word32) : (mul32 a b).toInt = wrapS32 (a.toInt * b.toInt) := BitVec.toInt_mul a b
@[simp] theorem toInt_add64 (a b : Word64) : (add64 a b).toInt = wrapS64 (a.toInt + b.toInt) := BitVec.toInt_add a b
@[simp] theorem toInt_sub64 (a b : Word64) : (sub64 a b).toInt = wrapS64 (a.toInt - b.toInt) := BitVec.toInt_sub
@[simp] theorem toInt_mul64 (a b : Word64) : (mul64 a b).toInt = wrapS64 (a.toInt * b.toInt) := BitVec.toInt_mul a b

/-! ## Shifts -/

/-- A left shift of a word is the wrapped product with a power of two, for every width and amount. -/
theorem toInt_shiftLeft_eq_bmod {w : Nat} (a : BitVec w) (k : Nat) :
    (a <<< k).toInt = (a.toInt * 2 ^ k).bmod (2 ^ w) := by
  rw [BitVec.toInt_shiftLeft, Nat.shiftLeft_eq, BitVec.toInt_eq_toNat_bmod, Int.bmod_mul_bmod]
  push_cast
  rfl

/-- An arithmetic right shift of a word is floor division by a power of two, for every width and amount. -/
theorem toInt_sshiftRight_eq_ediv {w : Nat} (a : BitVec w) (k : Nat) : (a.sshiftRight k).toInt = a.toInt / 2 ^ k := by
  rw [BitVec.toInt_sshiftRight, Int.shiftRight_eq_div_pow]
  push_cast
  rfl

@[simp] theorem toInt_shl32 (a : Word32) (k : Nat) : (shl32 a k).toInt = wrapS32 (a.toInt * 2 ^ k) :=
  toInt_shiftLeft_eq_bmod a k
@[simp] theorem toInt_asr32 (a : Word32) (k : Nat) : (asr32 a k).toInt = a.toInt / 2 ^ k :=
  toInt_sshiftRight_eq_ediv a k
@[simp] theorem toInt_shl64 (a : Word64) (k : Nat) : (shl64 a k).toInt = wrapS64 (a.toInt * 2 ^ k) :=
  toInt_shiftLeft_eq_bmod a k
@[simp] theorem toInt_asr64 (a : Word64) (k : Nat) : (asr64 a k).toInt = a.toInt / 2 ^ k :=
  toInt_sshiftRight_eq_ediv a k

/-! ## Quotient and clamp -/

/-- `sdiv64` is the wrapped truncated quotient. -/
@[simp] theorem toInt_sdiv64 (a b : Word64) : (sdiv64 a b).toInt = wrapS64 (a.toInt.tdiv b.toInt) :=
  BitVec.toInt_sdiv a b

/-- The truncated quotient overflows in one case only, `-2 ^ 63 / -1`. -/
theorem toInt_sdiv64_cases (a b : Word64) :
    (sdiv64 a b).toInt = if a.toInt = -2 ^ 63 ∧ b.toInt = -1 then -2 ^ 63 else a.toInt.tdiv b.toInt := by
  split
  · next h => rw [toInt_sdiv64, h.1, h.2]; rfl
  · next h =>
    refine BitVec.toInt_sdiv_of_ne_or_ne a b ?_
    by_contra hab
    obtain ⟨rfl, rfl⟩ := by simpa only [not_or, not_not] using hab
    exact h (by decide)

/-- `clamp32` clamps the signed value. -/
theorem toInt_clamp32 (v lo hi : Word32) : (clamp32 v lo hi).toInt =
    if v.toInt < lo.toInt then lo.toInt else if hi.toInt < v.toInt then hi.toInt else v.toInt := by
  simp only [clamp32, BitVec.slt_iff_toInt_lt]
  split
  · rfl
  · split <;> rfl

/-- Settles O34: one lemma per primitive. -/
theorem arithPrimitives : Obligations.ArithPrimitives :=
  ⟨wrapS32_spec, wrapS64_spec,
    fun a b => ⟨toInt_add32 a b, toInt_sub32 a b, toInt_mul32 a b⟩,
    fun a k _ => ⟨toInt_shl32 a k, toInt_asr32 a k⟩,
    fun a b => ⟨toInt_add64 a b, toInt_sub64 a b, toInt_mul64 a b⟩,
    fun a k _ => ⟨toInt_shl64 a k, toInt_asr64 a k⟩,
    fun a b _ => toInt_sdiv64_cases a b, toInt_clamp32, toNat_wrapU32⟩

end Sys2Proof.Machine
end

-- ==== Which instruction a step runs (00_scope.md R14, R15) ====
section
/-! PROOFS. What each agent's turn fetches, and that a step runs it. -/

namespace Sys2Proof.Machine

/-! ## Readiness of the ports -/

@[simp] theorem cmdReady_iff (s : State) : cmdReady s = true ↔ s.rd.seq = 0#4 := by simp [cmdReady, busy]
@[simp] theorem pcmdReady_iff (s : State) : pcmdReady s = true ↔ s.sp.pseq = 0#3 := by simp [pcmdReady, pbusy]

/-! ## Taking the turn off its list -/

@[simp] theorem popTurn_cfg (s : State) : (popTurn s).cfg = s.cfg := rfl
@[simp] theorem popTurn_rd (s : State) : (popTurn s).rd = s.rd := rfl
@[simp] theorem popTurn_sp (s : State) : (popTurn s).sp = s.sp := rfl
@[simp] theorem popTurn_bus (s : State) : (popTurn s).bus = s.bus := rfl
@[simp] theorem popTurn_env (s : State) : (popTurn s).env = { s.env with turns := s.env.turns.tail } := rfl

/-- The turn that is next is the one fetched. -/
theorem fetch_of_nextTurn {s : State} {k : Turn} (h : nextTurn s = k) : fetch s = fetchTurn k (popTurn s) := by
  rw [fetch, h]

/-- A step whose turn comes to an instruction is that instruction's `exec`. -/
theorem step_of_fetchTurn_instr {s t : State} {k : Turn} {i : Instr} (hk : nextTurn s = k)
    (hf : fetchTurn k (popTurn s) = .instr i t) : step s = exec i t := by
  rw [step, fetch_of_nextTurn hk, hf]

/-! ## The words on the ports and in the step registers -/

/-- What a decoded message on `CMD` consists of: one opcode byte in front of the rest. -/
theorem decode_cmd8_ok {tw : Nat} {bytes rest : List Byte} {i : Instr} (h : decode tw .cmd8 bytes = .ok (i, rest)) :
    ∃ op, bytes = op :: rest ∧ decodeCmd op = .ok i := by
  cases bytes with
  | nil => cases h
  | cons op more =>
    cases hd : decodeCmd op with
    | error e => simp [decode, hd, Except.map] at h
    | ok j =>
      obtain ⟨rfl, rfl⟩ : j = i ∧ more = rest := by simpa [decode, hd, Except.map] using h
      exact ⟨op, rfl, hd⟩

/-- What a decoded message on `PCMD` consists of: a whole frame whose opcode and operand decode. -/
theorem decode_pcmdv_ok {tw : Nat} {bytes rest : List Byte} {i : Instr}
    (h : decode tw .pcmdv bytes = .ok (i, rest)) :
    ∃ op operand, framePcmd bytes = some (op, operand, rest) ∧ decodePcmd op operand = .ok i := by
  cases hf : framePcmd bytes with
  | none => simp [decode, hf] at h
  | some frame =>
    obtain ⟨op, operand, more⟩ := frame
    cases hd : decodePcmd op operand with
    | error e => simp [decode, hf, hd, Except.map] at h
    | ok j =>
      obtain ⟨rfl, rfl⟩ : j = i ∧ more = rest := by simpa [decode, hf, hd, Except.map] using h
      exact ⟨op, operand, rfl, hd⟩

/-- A step number of the RD unit in a byte decodes to the step it names. -/
theorem decode_seq4_setWidth (tw : Nat) (v : BitVec 4) : decode tw .seq4 [v.setWidth 8] = .ok (decodeSeq v, []) := by
  have hv : (v.setWidth 8).toNat < 16 := by simp; omega
  have hw : (v.setWidth 8).setWidth 4 = v := by simp
  simp only [decode, hv, hw, if_true]

/-- A step number of the SP unit in a byte decodes to the step it names. -/
theorem decode_pseq3_setWidth (tw : Nat) (v : BitVec 3) : decode tw .pseq3 [v.setWidth 8] = .ok (decodePseq v, []) := by
  have hv : (v.setWidth 8).toNat < 8 := by simp; omega
  have hw : (v.setWidth 8).setWidth 3 = v := by simp
  simp only [decode, hv, hw, if_true]

/-! ## What the ports fetch -/

/-- A ready `CMD` with an accepted opcode on it gives the instruction and takes the word. -/
theorem fetchHost_of_decodeCmd {s : State} {op : Byte} {rest : List Byte} {i : Instr} (hr : s.rd.seq = 0#4)
    (hc : s.env.cmdIn = op :: rest) (hd : decodeCmd op = .ok i) :
    fetchHost s = .instr i (s.withEnv { s.env with cmdIn := rest }) := by
  simp [fetchHost, (cmdReady_iff s).2 hr, hc, hd]

/-- A ready `PCMD` with a whole accepted message on it gives the instruction and takes the message. -/
theorem fetchHostSp_of_decodePcmd {s : State} {op : Byte} {operand rest : List Byte} {i : Instr}
    (hr : s.sp.pseq = 0#3) (hc : framePcmd s.env.pcmdIn = some (op, operand, rest))
    (hd : decodePcmd op operand = .ok i) :
    fetchHostSp s = .instr i (s.withEnv { s.env with pcmdIn := rest }) := by
  simp [fetchHostSp, (pcmdReady_iff s).2 hr, hc, hd]

/-! ## A step, turn by turn -/

/-- A host turn on a ready `CMD` with an accepted word. -/
theorem step_host {s : State} {op : Byte} {rest : List Byte} {i : Instr} (hk : nextTurn s = .host)
    (hr : s.rd.seq = 0#4) (hc : s.env.cmdIn = op :: rest) (hd : decodeCmd op = .ok i) :
    step s = exec i { s with env := { s.env with turns := s.env.turns.tail, cmdIn := rest } } :=
  step_of_fetchTurn_instr hk (fetchHost_of_decodeCmd (s := popTurn s) hr hc hd)

/-- A host turn on a ready `PCMD` with a whole accepted message. -/
theorem step_hostSp {s : State} {op : Byte} {operand rest : List Byte} {i : Instr} (hk : nextTurn s = .hostSp)
    (hr : s.sp.pseq = 0#3) (hc : framePcmd s.env.pcmdIn = some (op, operand, rest))
    (hd : decodePcmd op operand = .ok i) :
    step s = exec i { s with env := { s.env with turns := s.env.turns.tail, pcmdIn := rest } } :=
  step_of_fetchTurn_instr hk (fetchHostSp_of_decodePcmd (s := popTurn s) hr hc hd)

/-- A turn of the RD unit runs the step that `SEQ` names. -/
theorem step_rd {s : State} (hk : nextTurn s = .rd) : step s = exec (decodeSeq s.rd.seq) (popTurn s) :=
  step_of_fetchTurn_instr hk rfl

/-- A turn of the SP unit runs the step that `PSEQ` names. -/
theorem step_sp {s : State} (hk : nextTurn s = .sp) : step s = exec (decodePseq s.sp.pseq) (popTurn s) :=
  step_of_fetchTurn_instr hk rfl

/-- A turn of the collaborator carries out the oldest request it holds. -/
theorem step_bus {s : State} {q : BusReq} {more : List BusReq} (hk : nextTurn s = .bus)
    (hq : s.bus.inFlight = q :: more) : step s = exec (instrOfReq q) (popTurn s) := by
  refine step_of_fetchTurn_instr hk ?_
  simp [fetchTurn, fetchBus, hq]

/-- Settles O48: the message decodes only to what the turn fetches. -/
theorem stepRunsDecodedInstruction : Obligations.StepRunsDecodedInstruction := by
  intro s i rest
  refine ⟨fun hk hr hd => ?_, fun hk hr hd => ?_, fun hk hd => ?_, fun hk hd => ?_, fun q more hk hq hi => ?_⟩
  · obtain ⟨op, hc, hop⟩ := decode_cmd8_ok hd
    exact step_host hk hr hc hop
  · obtain ⟨op, operand, hc, hop⟩ := decode_pcmdv_ok hd
    exact step_hostSp hk hr hc hop
  · obtain rfl : decodeSeq s.rd.seq = i := by simpa [decode_seq4_setWidth] using hd
    exact step_rd hk
  · obtain rfl : decodePseq s.sp.pseq = i := by simpa [decode_pseq3_setWidth] using hd
    exact step_sp hk
  · subst hi
    exact step_bus hk hq

end Sys2Proof.Machine
end

-- ==== The two units share no state (00_scope.md R14, 60_exceptions.md R292) ====
section
/-! PROOFS. A turn of one unit commutes with any change of the other unit's side. From this one fact come both halves of
`UnitsShareNoState`: with the change that changes nothing it is the frame, with any other it is the noninterference. -/

namespace Sys2Proof

/-- The formats whose instructions are those of the RD unit, its port and its bus. -/
def Format.onRdSide : Format → Bool
  | .cmd8 | .seq4 | .busreq => true
  | .pcmdv | .pseq3 => false

/-- An opcode accepted on `CMD` is an instruction of that port. -/
theorem decodeCmd_format {op : Byte} {i : Instr} (h : decodeCmd op = .ok i) : i.format = .cmd8 := by
  unfold decodeCmd at h
  split at h
  · cases h; rfl
  · split at h
    · cases h; rfl
    · cases h

/-- A message accepted on `PCMD` is an instruction of that port. -/
theorem decodePcmd_format {op : Byte} {operand : List Byte} {i : Instr} (h : decodePcmd op operand = .ok i) :
    i.format = .pcmdv := by
  unfold decodePcmd at h
  split at h <;> cases h
  rfl

/-- A value of `SEQ` names a step of the RD unit. -/
theorem decodeSeq_format (v : BitVec 4) : (decodeSeq v).format = .seq4 := by
  unfold decodeSeq
  split <;> rfl

/-- A value of `PSEQ` names a step of the SP unit. -/
theorem decodePseq_format (v : BitVec 3) : (decodePseq v).format = .pseq3 := by
  unfold decodePseq
  split <;> rfl

/-- A request is an instruction of the collaborator. -/
theorem instrOfReq_format (q : BusReq) : (instrOfReq q).format = .busreq := by
  unfold instrOfReq
  split <;> rfl

end Sys2Proof

namespace Sys2Proof.Machine

/-! ## Changing the next state of an outcome -/

/-- An outcome with `g` applied to its next state; a stop stays. -/
def mapNext (g : State → State) : StepOut → StepOut
  | .next t => .next (g t)
  | .fault e => .fault e
  | .refused e => .refused e

@[simp] theorem mapNext_next (g : State → State) (t : State) : mapNext g (.next t) = .next (g t) := rfl
@[simp] theorem mapNext_fault (g : State → State) (e : Fault) : mapNext g (.fault e) = .fault e := rfl
@[simp] theorem mapNext_refused (g : State → State) (e : Refusal) : mapNext g (.refused e) = .refused e := rfl

/-- A choice between two images is the image of the choice. Both conditions are written out, so that they need only
mean the same. -/
theorem ite_eq_apply {α β : Type} {g : α → β} {c c' : Prop} [Decidable c] [Decidable c'] {x y : α} {x' y' : β}
    (hc : c' ↔ c) (hx : x' = g x) (hy : y' = g y) : (if c' then x' else y') = g (if c then x else y) := by
  simp only [hc, hx, hy, apply_ite g]

/-- Operand reads whose continuation ignores a change ignore it. -/
theorem mapNext_onRead {α : Type} {g : State → State} {x : Except Fault α} {k k' : α → StepOut}
    (hk : ∀ a, k' a = mapNext g (k a)) : onRead x k' = mapNext g (onRead x k) := by
  cases x with
  | error e => rfl
  | ok a => exact hk a

/-- The outcome of what a turn comes to. -/
def runFetched : Fetched → StepOut
  | .instr i t => exec i t
  | .illegalCmd op t => takeIllegalCmd op t
  | .illegalPcmd op t => takeIllegalPcmd op t
  | .readRsp f t => hostReadsRsp f t
  | .readPrsp f t => hostReadsPrsp f t
  | .unasked t => deliverUnasked t
  | .reset t => .next (assertReset t)
  | .nothing t => .next t

/-- A step runs what its turn fetches. -/
theorem step_of_nextTurn {s : State} {k : Turn} (h : nextTurn s = k) :
    step s = runFetched (fetchTurn k (popTurn s)) := by
  rw [← fetch_of_nextTurn h]
  rfl

/-! ## The sides of the two units -/

/-- The turns of the RD unit, its port, its bus and its response. -/
def OnRdSide (k : Turn) : Prop := k = .rd ∨ k = .host ∨ k = .bus ∨ k = .busUnasked ∨ ∃ f, k = .readRsp f

/-- The turns of the SP unit, its port and its response. -/
def OnSpSide (k : Turn) : Prop := k = .sp ∨ k = .hostSp ∨ ∃ f, k = .readPrsp f

/-- `s` with another SP side, the unit and the messages for its port, and another list of turns, which is no unit's. -/
def withSpSide (p : SpUnit) (turns : List Turn) (msgs : List Byte) (s : State) : State :=
  { s with sp := p, env := { s.env with turns := turns, pcmdIn := msgs } }

/-- `s` with another RD side, the unit, its bus, the words for its port and the collaborator's answers, and another
list of turns. -/
def withRdSide (r : RdUnit) (b : Bus) (turns : List Turn) (words : List Byte) (answers : List BusRsp) (s : State) :
    State :=
  { s with rd := r, bus := b, env := { s.env with turns := turns, cmdIn := words, answers := answers } }

/-! ## The RD side ignores the SP side -/

section RdSide
variable (p : SpUnit) (turns : List Turn) (msgs : List Byte)

@[simp] theorem withSpSide_cfg (s : State) : (withSpSide p turns msgs s).cfg = s.cfg := rfl
@[simp] theorem withSpSide_rd (s : State) : (withSpSide p turns msgs s).rd = s.rd := rfl
@[simp] theorem withSpSide_bus (s : State) : (withSpSide p turns msgs s).bus = s.bus := rfl
@[simp] theorem withSpSide_cmdIn (s : State) : (withSpSide p turns msgs s).env.cmdIn = s.env.cmdIn := rfl
@[simp] theorem withSpSide_answers (s : State) : (withSpSide p turns msgs s).env.answers = s.env.answers := rfl
@[simp] theorem withSpSide_sp (s : State) : (withSpSide p turns msgs s).sp = p := rfl
@[simp] theorem withSpSide_pcmdIn (s : State) : (withSpSide p turns msgs s).env.pcmdIn = msgs := rfl

theorem raiseRd_withSpSide (op : Byte) (e : Err) (s : State) :
    raiseRd op e (withSpSide p turns msgs s) = withSpSide p turns msgs (raiseRd op e s) :=
  ite_eq_apply .rfl rfl rfl

/-- A transfer step ignores the SP side if its completion does. -/
theorem transfer_withSpSide (req : BusReq) {complete : BusRsp → State → State} (s : State)
    (hc : ∀ r s, complete r (withSpSide p turns msgs s) = withSpSide p turns msgs (complete r s)) :
    transfer req complete (withSpSide p turns msgs s) =
      mapNext (withSpSide p turns msgs) (transfer req complete s) := by
  refine ite_eq_apply .rfl ?_ (ite_eq_apply .rfl rfl rfl)
  rw [withSpSide_bus]
  cases s.bus.busrsp with
  | none => rfl
  | some r => exact congrArg Host.Outcome.next (hc r (takeResponse s))

theorem readTransfer_withSpSide (reg : Byte) (n : Nat) (op : Byte) (e : Err) {done : List Byte → State → State}
    (s : State) (hd : ∀ data s, done data (withSpSide p turns msgs s) = withSpSide p turns msgs (done data s)) :
    readTransfer reg n op e done (withSpSide p turns msgs s) =
      mapNext (withSpSide p turns msgs) (readTransfer reg n op e done s) := by
  refine transfer_withSpSide p turns msgs _ s fun r u => ?_
  cases judgeRead n r with
  | none => exact raiseRd_withSpSide p turns msgs op e u
  | some data => exact hd data (loadXbuf data u)

theorem writeTransfer_withSpSide (reg v : Byte) (next : BitVec 4) (s : State) :
    writeTransfer reg v next (withSpSide p turns msgs s) =
      mapNext (withSpSide p turns msgs) (writeTransfer reg v next s) :=
  transfer_withSpSide p turns msgs _ s fun _ _ => ite_eq_apply .rfl rfl (raiseRd_withSpSide p turns msgs _ _ _)

theorem checkIdentity_withSpSide (b : List Byte) (s : State) :
    checkIdentity b (withSpSide p turns msgs s) = withSpSide p turns msgs (checkIdentity b s) :=
  ite_eq_apply .rfl rfl (raiseRd_withSpSide p turns msgs _ _ _)

theorem deliver_withSpSide (r : BusRsp) (s : State) :
    deliver r (withSpSide p turns msgs s) = mapNext (withSpSide p turns msgs) (deliver r s) :=
  ite_eq_apply .rfl (ite_eq_apply .rfl rfl (ite_eq_apply .rfl rfl rfl)) (ite_eq_apply .rfl rfl rfl)

theorem deliverUnasked_withSpSide (s : State) :
    deliverUnasked (withSpSide p turns msgs s) = mapNext (withSpSide p turns msgs) (deliverUnasked s) :=
  ite_eq_apply .rfl rfl rfl

theorem execInit_withSpSide (s : State) :
    execInit (withSpSide p turns msgs s) = mapNext (withSpSide p turns msgs) (execInit s) := by
  refine ite_eq_apply .rfl ?_ rfl
  rw [withSpSide_rd]
  cases s.rd.dstate <;> rfl

theorem execRead_withSpSide (s : State) :
    execRead (withSpSide p turns msgs s) = mapNext (withSpSide p turns msgs) (execRead s) := by
  refine ite_eq_apply .rfl ?_ rfl
  rw [withSpSide_rd]
  cases s.rd.dstate <;> rfl

theorem execRd_withSpSide (dev : BitVec 7) (reg len wdata : Byte) (timeout : Nat) (s : State) :
    execRd dev reg len wdata timeout (withSpSide p turns msgs s) =
      mapNext (withSpSide p turns msgs) (execRd dev reg len wdata timeout s) := by
  refine ite_eq_apply .rfl ?_ rfl
  rw [withSpSide_answers]
  cases s.env.answers with
  | nil => rfl
  | cons a _ => exact deliver_withSpSide p turns msgs a (dropOldest (popAnswer s))

theorem execWr_withSpSide (dev : BitVec 7) (reg len wdata : Byte) (timeout : Nat) (s : State) :
    execWr dev reg len wdata timeout (withSpSide p turns msgs s) =
      mapNext (withSpSide p turns msgs) (execWr dev reg len wdata timeout s) := by
  unfold execWr
  rw [withSpSide_answers]
  cases s.env.answers with
  | nil => rfl
  | cons a _ =>
    exact ite_eq_apply .rfl (deliver_withSpSide p turns msgs a ((dropOldest (popAnswer s)).withBus _))
      (deliver_withSpSide p turns msgs a (dropOldest (popAnswer s)))

/-- Every instruction on the RD side ignores the SP side. -/
theorem exec_withSpSide (s : State) : ∀ i : Instr, i.format.onRdSide = true →
    exec i (withSpSide p turns msgs s) = mapNext (withSpSide p turns msgs) (exec i s)
  | .init, _ => execInit_withSpSide p turns msgs s
  | .read, _ => execRead_withSpSide p turns msgs s
  | .idle, _ | .iDone, _ => rfl
  | .iId, _ => readTransfer_withSpSide p turns msgs _ _ _ _ s (checkIdentity_withSpSide p turns msgs)
  | .iCala, _ =>
    readTransfer_withSpSide p turns msgs _ _ _ _ (done := fun a t => setSeq 3#4 (storeBlockA (decA t.cfg a) t)) s
      fun _ _ => rfl
  | .iCalb, _ =>
    readTransfer_withSpSide p turns msgs _ _ _ _ (done := fun b t => setSeq 4#4 (storeBlockB (decB t.cfg b) t)) s
      fun _ _ => rfl
  | .iCalc, _ =>
    readTransfer_withSpSide p turns msgs _ _ _ _ (done := fun c t => setSeq 5#4 (storeBlockC (decC t.cfg c) t)) s
      fun _ _ => rfl
  | .rData, _ =>
    readTransfer_withSpSide p turns msgs _ _ _ _ (done := fun _ t => setSeq 10#4 t) s fun _ _ => rfl
  | .iWhum, _ | .iWmeas, _ | .iWcfg, _ => writeTransfer_withSpSide p turns msgs _ _ _ s
  | .rUnpk, _ | .rCmpt, _ | .rCmpp, _ | .rCmph, _ | .rCvt, _ =>
    mapNext_onRead fun _ => rfl
  | .rDone, _ => mapNext_onRead fun _ => mapNext_onRead fun _ => rfl
  | .rd dev reg len wdata timeout, _ => execRd_withSpSide p turns msgs dev reg len wdata timeout s
  | .wr dev reg len wdata timeout, _ => execWr_withSpSide p turns msgs dev reg len wdata timeout s

theorem runFetchHost_withSpSide (s : State) :
    runFetched (fetchHost (withSpSide p turns msgs s)) =
      mapNext (withSpSide p turns msgs) (runFetched (fetchHost s)) := by
  simp only [fetchHost, apply_ite runFetched]
  refine ite_eq_apply .rfl ?_ rfl
  rw [withSpSide_cmdIn]
  cases s.env.cmdIn with
  | nil => rfl
  | cons op rest =>
    cases hd : decodeCmd op with
    | error e => simp only [hd]; rfl
    | ok i =>
      simp only [hd]
      exact exec_withSpSide p turns msgs (s.withEnv { s.env with cmdIn := rest }) i (by rw [decodeCmd_format hd]; rfl)

theorem runFetchBus_withSpSide (s : State) :
    runFetched (fetchBus (withSpSide p turns msgs s)) =
      mapNext (withSpSide p turns msgs) (runFetched (fetchBus s)) := by
  unfold fetchBus
  rw [withSpSide_bus]
  cases s.bus.inFlight with
  | nil => rfl
  | cons q _ => exact exec_withSpSide p turns msgs s _ (by rw [instrOfReq_format]; rfl)

theorem hostReadsRsp_withSpSide (f : RspField) (s : State) :
    hostReadsRsp f (withSpSide p turns msgs s) = mapNext (withSpSide p turns msgs) (hostReadsRsp f s) := by
  unfold hostReadsRsp
  rw [withSpSide_rd]
  cases s.rd.rsp.field f <;> rfl

/-- Every turn on the RD side ignores the SP side. -/
theorem runFetched_withSpSide {k : Turn} (hk : OnRdSide k) (s : State) :
    runFetched (fetchTurn k (withSpSide p turns msgs s)) =
      mapNext (withSpSide p turns msgs) (runFetched (fetchTurn k s)) := by
  obtain rfl | rfl | rfl | rfl | ⟨f, rfl⟩ := hk
  case inl => exact exec_withSpSide p turns msgs s _ (by rw [decodeSeq_format]; rfl)
  case inr.inl => exact runFetchHost_withSpSide p turns msgs s
  case inr.inr.inl => exact runFetchBus_withSpSide p turns msgs s
  case inr.inr.inr.inl => exact deliverUnasked_withSpSide p turns msgs (popAnswer s)
  case inr.inr.inr.inr => exact hostReadsRsp_withSpSide p turns msgs f s

/-- A step of a turn on the RD side, at a state with another SP side. -/
theorem step_withSpSide {s : State} (hk : OnRdSide (nextTurn s))
    (hn : nextTurn (withSpSide p turns msgs s) = nextTurn s) :
    step (withSpSide p turns msgs s) = mapNext (withSpSide p turns.tail msgs) (step s) := by
  rw [step_of_nextTurn hn, step_of_nextTurn rfl]
  exact runFetched_withSpSide p turns.tail msgs hk (popTurn s)

end RdSide

/-! ## The SP side ignores the RD side -/

section SpSide
variable (r : RdUnit) (b : Bus) (turns : List Turn) (words : List Byte) (answers : List BusRsp)

@[simp] theorem withRdSide_cfg (s : State) : (withRdSide r b turns words answers s).cfg = s.cfg := rfl
@[simp] theorem withRdSide_sp (s : State) : (withRdSide r b turns words answers s).sp = s.sp := rfl
@[simp] theorem withRdSide_pcmdIn (s : State) : (withRdSide r b turns words answers s).env.pcmdIn = s.env.pcmdIn := rfl
@[simp] theorem withRdSide_rd (s : State) : (withRdSide r b turns words answers s).rd = r := rfl
@[simp] theorem withRdSide_bus (s : State) : (withRdSide r b turns words answers s).bus = b := rfl
@[simp] theorem withRdSide_cmdIn (s : State) : (withRdSide r b turns words answers s).env.cmdIn = words := rfl
@[simp] theorem withRdSide_answers (s : State) : (withRdSide r b turns words answers s).env.answers = answers := rfl

/-- Every instruction on the SP side ignores the RD side. -/
theorem exec_withRdSide (s : State) : ∀ i : Instr, i.format.onRdSide = false →
    exec i (withRdSide r b turns words answers s) = mapNext (withRdSide r b turns words answers) (exec i s)
  | .parse _, _ => ite_eq_apply .rfl rfl rfl
  | .pIdle, _ => rfl
  | .pPfx, _ => mapNext_onRead fun _ => congrArg Host.Outcome.next (ite_eq_apply .rfl rfl rfl)
  | .pCnt, _ => mapNext_onRead fun _ => congrArg Host.Outcome.next (ite_eq_apply .rfl rfl rfl)
  | .pCopy, _ | .pSplit, _ | .pScan, _ | .pConv, _ | .pDone, _ =>
    mapNext_onRead fun _ => rfl

theorem runFetchHostSp_withRdSide (s : State) :
    runFetched (fetchHostSp (withRdSide r b turns words answers s)) =
      mapNext (withRdSide r b turns words answers) (runFetched (fetchHostSp s)) := by
  simp only [fetchHostSp, apply_ite runFetched]
  refine ite_eq_apply .rfl ?_ rfl
  rw [withRdSide_pcmdIn]
  cases framePcmd s.env.pcmdIn with
  | none => rfl
  | some frame =>
    obtain ⟨op, operand, rest⟩ := frame
    cases hd : decodePcmd op operand with
    | error e => simp only [hd]; rfl
    | ok i =>
      simp only [hd]
      exact exec_withRdSide r b turns words answers (s.withEnv { s.env with pcmdIn := rest }) i
        (by rw [decodePcmd_format hd]; rfl)

theorem hostReadsPrsp_withRdSide (f : PrspField) (s : State) :
    hostReadsPrsp f (withRdSide r b turns words answers s) =
      mapNext (withRdSide r b turns words answers) (hostReadsPrsp f s) := by
  unfold hostReadsPrsp
  rw [withRdSide_sp]
  cases s.sp.prsp.field f <;> rfl

/-- Every turn on the SP side ignores the RD side. -/
theorem runFetched_withRdSide {k : Turn} (hk : OnSpSide k) (s : State) :
    runFetched (fetchTurn k (withRdSide r b turns words answers s)) =
      mapNext (withRdSide r b turns words answers) (runFetched (fetchTurn k s)) := by
  obtain rfl | rfl | ⟨f, rfl⟩ := hk
  case inl => exact exec_withRdSide r b turns words answers s _ (by rw [decodePseq_format]; rfl)
  case inr.inl => exact runFetchHostSp_withRdSide r b turns words answers s
  case inr.inr => exact hostReadsPrsp_withRdSide r b turns words answers f s

/-- A step of a turn on the SP side, at a state with another RD side. -/
theorem step_withRdSide {s : State} (hk : OnSpSide (nextTurn s))
    (hn : nextTurn (withRdSide r b turns words answers s) = nextTurn s) :
    step (withRdSide r b turns words answers s) = mapNext (withRdSide r b turns.tail words answers) (step s) := by
  rw [step_of_nextTurn hn, step_of_nextTurn rfl]
  exact runFetched_withRdSide r b turns.tail words answers hk (popTurn s)

end SpSide

/-! ## Frame and noninterference -/

/-- A turn on the RD side leaves the SP side as it is. -/
theorem step_frame_of_onRdSide {s t : State} (hk : OnRdSide (nextTurn s)) (h : step s = .next t) :
    t.sp = s.sp ∧ t.env.pcmdIn = s.env.pcmdIn := by
  have he : step s = mapNext (withSpSide s.sp s.env.turns.tail s.env.pcmdIn) (step s) :=
    step_withSpSide s.sp s.env.turns s.env.pcmdIn hk rfl
  rw [h] at he
  have ht := Host.Outcome.next.inj he
  exact ⟨(congrArg State.sp ht :), (congrArg (·.env.pcmdIn) ht :)⟩

/-- A turn on the SP side leaves the RD side as it is. -/
theorem step_frame_of_onSpSide {s t : State} (hk : OnSpSide (nextTurn s)) (h : step s = .next t) :
    t.rd = s.rd ∧ t.bus = s.bus ∧ t.env.cmdIn = s.env.cmdIn ∧ t.env.answers = s.env.answers := by
  have he : step s = mapNext (withRdSide s.rd s.bus s.env.turns.tail s.env.cmdIn s.env.answers) (step s) :=
    step_withRdSide s.rd s.bus s.env.turns s.env.cmdIn s.env.answers hk rfl
  rw [h] at he
  have ht := Host.Outcome.next.inj he
  exact ⟨(congrArg State.rd ht :), (congrArg State.bus ht :), (congrArg (·.env.cmdIn) ht :),
    (congrArg (·.env.answers) ht :)⟩

/-- Two states that agree on the SP side and the parameters differ by an RD side. -/
theorem eq_withRdSide {s s' : State} (hcfg : s'.cfg = s.cfg) (hsp : s'.sp = s.sp)
    (hmsgs : s'.env.pcmdIn = s.env.pcmdIn) :
    s' = withRdSide s'.rd s'.bus s'.env.turns s'.env.cmdIn s'.env.answers s := by
  simp only [withRdSide, ← hcfg, ← hsp, ← hmsgs]

/-- Two states that agree on the RD side and the parameters differ by an SP side. -/
theorem eq_withSpSide {s s' : State} (hcfg : s'.cfg = s.cfg) (hrd : s'.rd = s.rd) (hbus : s'.bus = s.bus)
    (hwords : s'.env.cmdIn = s.env.cmdIn) (hans : s'.env.answers = s.env.answers) :
    s' = withSpSide s'.sp s'.env.turns s'.env.pcmdIn s := by
  simp only [withSpSide, ← hcfg, ← hrd, ← hbus, ← hwords, ← hans]

/-- What a turn on the SP side does there does not depend on the RD side. -/
theorem step_congr_of_onSpSide {s s' t : State} (hcfg : s'.cfg = s.cfg) (hsp : s'.sp = s.sp)
    (hmsgs : s'.env.pcmdIn = s.env.pcmdIn) (hn : nextTurn s' = nextTurn s) (hk : OnSpSide (nextTurn s))
    (h : step s = .next t) : ∃ t', step s' = .next t' ∧ t'.sp = t.sp ∧ t'.env.pcmdIn = t.env.pcmdIn := by
  have hs := eq_withRdSide hcfg hsp hmsgs
  refine ⟨withRdSide s'.rd s'.bus s'.env.turns.tail s'.env.cmdIn s'.env.answers t, ?_, rfl, rfl⟩
  conv_lhs => rw [hs]
  rw [step_withRdSide _ _ _ _ _ hk (hs ▸ hn), h, mapNext_next]

/-- What a turn on the RD side does there does not depend on the SP side. -/
theorem step_congr_of_onRdSide {s s' t : State} (hcfg : s'.cfg = s.cfg) (hrd : s'.rd = s.rd) (hbus : s'.bus = s.bus)
    (hwords : s'.env.cmdIn = s.env.cmdIn) (hans : s'.env.answers = s.env.answers) (hn : nextTurn s' = nextTurn s)
    (hk : OnRdSide (nextTurn s)) (h : step s = .next t) :
    ∃ t', step s' = .next t' ∧ t'.rd = t.rd ∧ t'.bus = t.bus ∧ t'.env.cmdIn = t.env.cmdIn ∧
      t'.env.answers = t.env.answers := by
  have hs := eq_withSpSide hcfg hrd hbus hwords hans
  refine ⟨withSpSide s'.sp s'.env.turns.tail s'.env.pcmdIn t, ?_, rfl, rfl, rfl, rfl⟩
  conv_lhs => rw [hs]
  rw [step_withSpSide _ _ _ hk (hs ▸ hn), h, mapNext_next]

/-- Settles O53: the frame of each side's turns, and the noninterference of each side with the other. -/
theorem unitsShareNoState : Obligations.UnitsShareNoState :=
  ⟨fun _ _ h => ⟨fun hk => step_frame_of_onSpSide hk h, fun hk => step_frame_of_onRdSide hk h⟩,
    fun _ _ _ hcfg hsp hmsgs hn hk h => step_congr_of_onSpSide hcfg hsp hmsgs hn hk h,
    fun _ _ _ hcfg hrd hbus hwords hans hn hk h => step_congr_of_onRdSide hcfg hrd hbus hwords hans hn hk h⟩

end Sys2Proof.Machine
end

-- ==== RN_F, round to nearest even in binary32 (00_scope.md R12) ====
section
/-! PROOFS. The rounded pattern is nearest among all patterns of an unbounded exponent range, ties to even
(`roundPattern_nearest`). The bound and the overflow threshold follow by comparing with the two patterns next to the
threshold. -/

namespace Sys2Proof.Machine
open Sys2Proof.Expect

/-! ## Integers near a rational -/

/-- Twice the distance of `roundDivEven n d` from `n / d`, counted in units of `1 / d`, is at most `d`, and the
result is even where it is `d`. -/
theorem roundDivEven_spec (n : Nat) {d : Nat} (hd : 0 < d) :
    2 * n ≤ 2 * (roundDivEven n d * d) + d ∧ 2 * (roundDivEven n d * d) ≤ 2 * n + d ∧
      (2 * n = 2 * (roundDivEven n d * d) + d ∨ 2 * (roundDivEven n d * d) = 2 * n + d →
        roundDivEven n d % 2 = 0) := by
  have hn : d * (n / d) + n % d = n := Nat.div_add_mod n d
  have hr : n % d < d := Nat.mod_lt n hd
  unfold roundDivEven
  generalize n / d = q at *
  generalize n % d = r at *
  subst hn
  dsimp only
  have hq : (q + 1) * d = d * q + d := by ring
  split
  · rw [Nat.mul_comm q d]; omega
  · split
    · rw [hq]; omega
    · obtain hz | ho := Nat.mod_two_eq_zero_or_one q
      · rw [hz, Nat.add_zero, Nat.mul_comm q d]; omega
      · rw [ho, hq]; omega

/-- `m` is the integer nearest to `x`, the even one of two. -/
def NearestInt (m : Nat) (x : ℚ) : Prop := |(m : ℚ) - x| ≤ 1 / 2 ∧ (|(m : ℚ) - x| = 1 / 2 → m % 2 = 0)

/-- `roundDivEven` rounds to nearest, ties to even. -/
theorem roundDivEven_nearestInt (n : Nat) {d : Nat} (hd : 0 < d) : NearestInt (roundDivEven n d) ((n : ℚ) / d) := by
  obtain ⟨hlo, hhi, htie⟩ := roundDivEven_spec n hd
  generalize roundDivEven n d = m at *
  have hd' : (0 : ℚ) < d := by exact_mod_cast hd
  have hlo' : 2 * (n : ℚ) ≤ 2 * (m * d) + d := by exact_mod_cast hlo
  have hhi' : 2 * ((m : ℚ) * d) ≤ 2 * n + d := by exact_mod_cast hhi
  have hdist : (m : ℚ) - n / d = (m * d - n) / d := by field_simp
  rw [NearestInt, hdist, abs_div, abs_of_pos hd', div_le_iff₀ hd', div_eq_iff hd'.ne', abs_le]
  refine ⟨⟨by linarith, by linarith⟩, fun he => htie ?_⟩
  obtain h | h := abs_choice ((m : ℚ) * d - n) <;> rw [h] at he
  · right
    have : 2 * ((m : ℚ) * d) = 2 * n + d := by linarith
    exact_mod_cast this
  · left
    have : 2 * (n : ℚ) = 2 * (m * d) + d := by linarith
    exact_mod_cast this

/-- No integer is nearer to `x` than the nearest one, and another one is as near only if the nearest one is even. -/
theorem NearestInt.nearest {m : Nat} {x : ℚ} (h : NearestInt m x) (j : Nat) :
    |(m : ℚ) - x| ≤ |(j : ℚ) - x| ∧ (|(m : ℚ) - x| = |(j : ℚ) - x| → j = m ∨ m % 2 = 0) := by
  obtain ⟨hle, htie⟩ := h
  by_cases hj : j = m
  · subst hj
    exact ⟨le_rfl, fun _ => .inl rfl⟩
  · have hone : (1 : ℚ) ≤ |(j : ℚ) - m| := by
      have : (1 : ℤ) ≤ |(j : ℤ) - m| := Int.one_le_abs (by omega)
      exact_mod_cast this
    have htri : |(j : ℚ) - m| ≤ |(j : ℚ) - x| + |(m : ℚ) - x| := by
      rw [abs_sub_comm (m : ℚ) x]
      exact abs_sub_le _ _ _
    exact ⟨by linarith, fun he => .inr (htie (by linarith))⟩

/-! ## Magnitudes -/

/-- The value of a subnormal pattern (R12). -/
theorem magnitude_of_lt {f : Nat} (hf : f < 2 ^ 23) : magnitude f = f / 2 ^ 149 := by
  have hdiv : f / 2 ^ 23 = 0 := Nat.div_eq_of_lt hf
  have hmod : f % 2 ^ 23 = f := Nat.mod_eq_of_lt hf
  rw [magnitude, hdiv, hmod, if_pos rfl]
  norm_num
  ring

/-- The value of a normal pattern, its significand as a whole number (R12). -/
theorem magnitude_normal (e : Nat) {f : Nat} (hf : f < 2 ^ 23) :
    magnitude ((e + 1) * 2 ^ 23 + f) = (2 ^ 23 + f : Nat) * 2 ^ e / 2 ^ 149 := by
  have hdiv : ((e + 1) * 2 ^ 23 + f) / 2 ^ 23 = e + 1 := by omega
  have hmod : ((e + 1) * 2 ^ 23 + f) % 2 ^ 23 = f := by omega
  have hexp : (2 : ℚ) ^ (((e + 1 : Nat) : ℤ) - 127) = 2 ^ e / 2 ^ 126 := by
    rw [show ((e + 1 : Nat) : ℤ) - 127 = (e : ℤ) - (126 : Nat) by push_cast; ring,
      zpow_sub₀ (by norm_num), zpow_natCast, zpow_natCast]
  rw [magnitude, hdiv, hmod, if_neg (Nat.succ_ne_zero e), hexp]
  push_cast
  ring

/-- `s` is a significand for the exponent `k - 149`: below `2 ^ 24`, or `2 ^ 24` itself as a carry leaves it, and with
its leading bit unless the exponent is the smallest. -/
def IsSignificand (k s : Nat) : Prop := s ≤ 2 ^ 24 ∧ (k = 0 ∨ 2 ^ 23 ≤ s)

/-- The value of the pattern that an exponent and a significand add up to, a carry into the exponent included. -/
theorem magnitude_of_isSignificand {k s : Nat} (h : IsSignificand k s) :
    magnitude (k * 2 ^ 23 + s) = s * (2 ^ k / 2 ^ 149) := by
  obtain ⟨hle, hk⟩ := h
  by_cases hsub : s < 2 ^ 23
  · obtain rfl : k = 0 := by omega
    rw [Nat.zero_mul, Nat.zero_add, magnitude_of_lt hsub]
    ring
  · obtain hlt | rfl := hle.lt_or_eq
    · obtain ⟨f, rfl⟩ := Nat.exists_eq_add_of_le (not_lt.1 hsub)
      rw [show k * 2 ^ 23 + (2 ^ 23 + f) = (k + 1) * 2 ^ 23 + f by ring, magnitude_normal k (by omega)]
      ring
    · rw [show k * 2 ^ 23 + 2 ^ 24 = (k + 1 + 1) * 2 ^ 23 + 0 by ring, magnitude_normal (k + 1) (by norm_num)]
      push_cast
      ring

/-- Every pattern is an exponent and a significand below `2 ^ 24`. -/
theorem exists_significand (m : Nat) : ∃ k s, m = k * 2 ^ 23 + s ∧ s < 2 ^ 24 ∧ IsSignificand k s := by
  by_cases hm : m < 2 ^ 23
  · exact ⟨0, m, by omega, by omega, by omega, .inl rfl⟩
  · exact ⟨m / 2 ^ 23 - 1, 2 ^ 23 + m % 2 ^ 23, by omega, by omega, by omega, .inr (by omega)⟩

/-- The order of the patterns is that of their values. -/
theorem magnitude_strictMono : StrictMono magnitude := by
  refine strictMono_nat_of_lt_succ fun m => ?_
  obtain ⟨k, s, rfl, hlt, hs⟩ := exists_significand m
  have hs' : IsSignificand k (s + 1) := ⟨hlt, hs.2.imp_right (by omega)⟩
  rw [Nat.add_assoc, magnitude_of_isSignificand hs, magnitude_of_isSignificand hs']
  have hu : (0 : ℚ) < 2 ^ k / 2 ^ 149 := by positivity
  push_cast
  linarith

/-- From the binade of `k` on, values are multiples of the unit of `k`. -/
theorem magnitude_eq_multiple {k m : Nat} (h : k = 0 ∨ (k + 1) * 2 ^ 23 ≤ m) :
    ∃ j : Nat, magnitude m = j * (2 ^ k / 2 ^ 149) := by
  obtain ⟨k', s, rfl, hlt, hs⟩ := exists_significand m
  obtain ⟨i, rfl⟩ := Nat.exists_eq_add_of_le (show k ≤ k' by omega)
  refine ⟨s * 2 ^ i, ?_⟩
  rw [magnitude_of_isSignificand hs]
  push_cast
  ring

/-! ## The unit of the rounding -/

/-- A number shifted until its leading bit is bit `k`. -/
theorem shifted_mem_binade {m i k : Nat} (hm : m ≠ 0) (hk : Nat.log2 m + i = k) :
    2 ^ k ≤ m * 2 ^ i ∧ m * 2 ^ i < 2 * 2 ^ k := by
  subst hk
  rw [pow_add]
  have hlo := Nat.mul_le_mul_right (2 ^ i) (Nat.log2_self_le hm)
  have hhi := Nat.mul_lt_mul_of_pos_right (Nat.lt_log2_self (n := m)) (Nat.two_pow_pos i)
  rw [pow_succ, Nat.mul_right_comm] at hhi
  exact ⟨hlo, by omega⟩

/-- `floorLog2` with both numbers shifted to the same leading bit. -/
theorem floorLog2_eq (n d : Nat) : floorLog2 n d =
    if d * 2 ^ (Nat.log2 n - Nat.log2 d) ≤ n * 2 ^ (Nat.log2 d - Nat.log2 n)
    then (Nat.log2 n : ℤ) - Nat.log2 d else (Nat.log2 n : ℤ) - Nat.log2 d - 1 := by
  unfold floorLog2
  generalize Nat.log2 n = a
  generalize Nat.log2 d = b
  dsimp only
  obtain hab | hab := le_or_gt b a
  · rw [if_pos hab, Nat.sub_eq_zero_of_le hab, pow_zero, Nat.mul_one, Nat.cast_sub hab]
  · rw [if_neg hab.not_ge, Nat.sub_eq_zero_of_le hab.le, pow_zero, Nat.mul_one, Nat.cast_sub hab.le, neg_sub]

/-- A quotient between two powers of two, from products with powers of two. -/
theorem quotient_mem_binade {n d p r : Nat} (hd : 0 < d) (hlo : d * 2 ^ p ≤ n * 2 ^ r)
    (hhi : n * 2 ^ r < 2 * (d * 2 ^ p)) :
    (2 : ℚ) ^ ((p : ℤ) - r) ≤ (n : ℚ) / d ∧ (n : ℚ) / d < 2 ^ ((p : ℤ) - r + 1) := by
  have hd' : (0 : ℚ) < d := by exact_mod_cast hd
  have hlo' : (d : ℚ) * 2 ^ p ≤ n * 2 ^ r := by exact_mod_cast hlo
  have hhi' : (n : ℚ) * 2 ^ r < 2 * (d * 2 ^ p) := by exact_mod_cast hhi
  rw [zpow_add₀ two_ne_zero, zpow_sub₀ two_ne_zero, zpow_natCast, zpow_natCast, zpow_one, div_mul_eq_mul_div,
    div_le_div_iff₀ (by positivity) hd', div_lt_div_iff₀ hd' (by positivity)]
  exact ⟨by linarith, by linarith⟩

/-- `floorLog2` is the floor of the logarithm. -/
theorem floorLog2_spec {n d : Nat} (hn : 0 < n) (hd : 0 < d) :
    (2 : ℚ) ^ floorLog2 n d ≤ (n : ℚ) / d ∧ (n : ℚ) / d < 2 ^ (floorLog2 n d + 1) := by
  rw [floorLog2_eq]
  obtain ⟨hdlo, hdhi⟩ := shifted_mem_binade (i := Nat.log2 n - Nat.log2 d) (k := max (Nat.log2 n) (Nat.log2 d))
    hd.ne' (by omega)
  obtain ⟨hnlo, hnhi⟩ := shifted_mem_binade (i := Nat.log2 d - Nat.log2 n) (k := max (Nat.log2 n) (Nat.log2 d))
    hn.ne' (by omega)
  split
  · next hle =>
    have h := quotient_mem_binade hd hle (by omega)
    rwa [show ((Nat.log2 n - Nat.log2 d : Nat) : ℤ) - (Nat.log2 d - Nat.log2 n : Nat) = Nat.log2 n - Nat.log2 d by
      omega] at h
  · next hlt =>
    have h := quotient_mem_binade (n := n) (p := Nat.log2 n - Nat.log2 d) (r := Nat.log2 d - Nat.log2 n + 1) hd
      (by rw [pow_succ, ← Nat.mul_assoc]; omega) (by rw [pow_succ, ← Nat.mul_assoc]; omega)
    rwa [show ((Nat.log2 n - Nat.log2 d : Nat) : ℤ) - (Nat.log2 d - Nat.log2 n + 1 : Nat) =
      Nat.log2 n - Nat.log2 d - 1 by omega] at h

/-- The pattern that rounding `n / d` comes to while the exponent has no upper bound. -/
def roundPattern (n d : Nat) : Nat := (ulpExp n d + 149).toNat * 8388608 + scaledRound n d (ulpExp n d)

/-- The magnitude pattern is that one, capped at infinity. -/
theorem roundMag_eq {n d : Nat} (hn : 0 < n) : roundMag n d = min 0x7F800000 (roundPattern n d) := by
  rw [roundMag, if_neg hn.ne', roundPattern]

/-- `scaledRound` rounds the number of units to nearest, ties to even. -/
theorem scaledRound_nearestInt (n : Nat) {d : Nat} (hd : 0 < d) (e : ℤ) :
    NearestInt (scaledRound n d e) ((n : ℚ) / d / 2 ^ e) := by
  unfold scaledRound
  split
  · next he =>
    obtain ⟨a, rfl⟩ := Int.eq_ofNat_of_zero_le he
    have h := roundDivEven_nearestInt n (Nat.mul_pos hd (Nat.two_pow_pos a))
    push_cast at h
    rwa [← div_div] at h
  · next he =>
    obtain ⟨a, rfl⟩ : ∃ a : Nat, e = -(a : ℤ) := ⟨(-e).toNat, by omega⟩
    have h := roundDivEven_nearestInt (n * 2 ^ a) hd
    push_cast at h
    rw [zpow_neg, div_inv_eq_mul, div_mul_eq_mul_div, neg_neg]
    exact h

/-- In the unit of the rounding `n / d` is below `2 ^ 24`, and at least `2 ^ 23` unless the unit is the smallest. -/
theorem ulpExp_spec {n d : Nat} (hn : 0 < n) (hd : 0 < d) :
    (n : ℚ) / d / 2 ^ ulpExp n d < 2 ^ 24 ∧
      (ulpExp n d = -149 ∨ (2 : ℚ) ^ 23 ≤ (n : ℚ) / d / 2 ^ ulpExp n d) := by
  obtain ⟨hlo, hhi⟩ := floorLog2_spec hn hd
  have hu : (0 : ℚ) < 2 ^ ulpExp n d := by positivity
  have hup : floorLog2 n d + 1 ≤ 24 + ulpExp n d := by unfold ulpExp; omega
  have hdown : ulpExp n d = -149 ∨ 23 + ulpExp n d = floorLog2 n d := by unfold ulpExp; omega
  rw [div_lt_iff₀ hu, le_div_iff₀ hu]
  have hpow : ∀ i : Nat, (2 : ℚ) ^ i * 2 ^ ulpExp n d = 2 ^ ((i : ℤ) + ulpExp n d) := fun i => by
    rw [zpow_add₀ (by norm_num), zpow_natCast]
  rw [hpow, hpow]
  refine ⟨hhi.trans_le (zpow_le_zpow_right₀ (by norm_num) hup), hdown.imp_right fun he => ?_⟩
  rwa [show ((23 : Nat) : ℤ) = 23 from rfl, he]

/-- What the rounded pattern is made of. -/
theorem roundPattern_spec {n d : Nat} (hn : 0 < n) (hd : 0 < d) :
    ∃ k s x, roundPattern n d = k * 2 ^ 23 + s ∧ (n : ℚ) / d = x * (2 ^ k / 2 ^ 149) ∧ IsSignificand k s ∧
      NearestInt s x ∧ (k = 0 ∨ 2 ^ 23 ≤ x) := by
  obtain ⟨hlt, hge⟩ := ulpExp_spec hn hd
  have hnear := scaledRound_nearestInt n hd (ulpExp n d)
  obtain ⟨k, hk⟩ : ∃ k : Nat, ulpExp n d = k - 149 := ⟨(ulpExp n d + 149).toNat, by unfold ulpExp; omega⟩
  have hpat : roundPattern n d = k * 2 ^ 23 + scaledRound n d (ulpExp n d) := by
    rw [roundPattern, hk]
    simp
  have hunit : (2 : ℚ) ^ ulpExp n d = 2 ^ k / 2 ^ 149 := by
    rw [hk, zpow_sub₀ (by norm_num), zpow_natCast]
    rfl
  have hge' : k = 0 ∨ (2 : ℚ) ^ 23 ≤ (n : ℚ) / d / 2 ^ ulpExp n d := hge.imp_left (by omega)
  generalize hx : (n : ℚ) / d / 2 ^ ulpExp n d = x at *
  generalize scaledRound n d (ulpExp n d) = s at *
  have hclose := abs_le.1 hnear.1
  refine ⟨k, s, x, hpat, ?_, ⟨?_, hge'.imp_right fun h => ?_⟩, hnear, hge'⟩
  · rw [← hunit, ← hx, div_mul_cancel₀]
    positivity
  · have : (s : ℚ) < (2 ^ 24 + 1 : Nat) := by push_cast; linarith
    have : s < 2 ^ 24 + 1 := by exact_mod_cast this
    omega
  · have : ((2 ^ 23 - 1 : Nat) : ℚ) < s := by push_cast; linarith
    have : 2 ^ 23 - 1 < s := by exact_mod_cast this
    omega

/-! ## The nearest pattern -/

/-- No pattern is nearer to `n / d` than the rounded one, and another one is as near only if the rounded one is even. -/
theorem roundPattern_nearest {n d : Nat} (hn : 0 < n) (hd : 0 < d) (m : Nat) :
    |magnitude (roundPattern n d) - (n : ℚ) / d| ≤ |magnitude m - (n : ℚ) / d| ∧
      (|magnitude (roundPattern n d) - (n : ℚ) / d| = |magnitude m - (n : ℚ) / d| →
        m = roundPattern n d ∨ roundPattern n d % 2 = 0) := by
  obtain ⟨k, s, x, hpat, hq, hs, hnear, hx⟩ := roundPattern_spec hn hd
  have hu : (0 : ℚ) < 2 ^ k / 2 ^ 149 := by positivity
  rw [hpat, hq, magnitude_of_isSignificand hs, ← sub_mul, abs_mul, abs_of_pos hu]
  by_cases hm : k = 0 ∨ (k + 1) * 2 ^ 23 ≤ m
  · obtain ⟨j, hj⟩ := magnitude_eq_multiple hm
    obtain ⟨hle, htie⟩ := hnear.nearest j
    rw [hj, ← sub_mul, abs_mul, abs_of_pos hu]
    refine ⟨mul_le_mul_of_nonneg_right hle hu.le, fun he => ?_⟩
    obtain rfl | heven := htie (mul_right_cancel₀ hu.ne' he)
    · left
      exact magnitude_strictMono.injective (hj.trans (magnitude_of_isSignificand hs).symm)
    · right
      omega
  · obtain ⟨hk, hlt⟩ := not_or.1 hm
    have hx : 2 ^ 23 ≤ x := hx.resolve_left hk
    have hstart : magnitude m < 2 ^ 23 * (2 ^ k / 2 ^ 149) := by
      have h := magnitude_strictMono (show m < k * 2 ^ 23 + 2 ^ 23 by omega)
      rwa [magnitude_of_isSignificand ⟨by norm_num, .inr le_rfl⟩, Nat.cast_pow, Nat.cast_ofNat] at h
    have hdist : |(s : ℚ) - x| ≤ x - 2 ^ 23 := by
      have h := (hnear.nearest (2 ^ 23)).1
      rwa [Nat.cast_pow, Nat.cast_ofNat, abs_of_nonpos (sub_nonpos.2 hx), neg_sub] at h
    have hfar : x * (2 ^ k / 2 ^ 149) - magnitude m ≤ |magnitude m - x * (2 ^ k / 2 ^ 149)| := by
      rw [abs_sub_comm]
      exact le_abs_self _
    have hless : |(s : ℚ) - x| * (2 ^ k / 2 ^ 149) < |magnitude m - x * (2 ^ k / 2 ^ 149)| := by
      have := mul_le_mul_of_nonneg_right hdist hu.le
      linarith
    exact ⟨hless.le, fun he => absurd he hless.ne⟩

/-! ## The overflow threshold -/

/-- The largest finite pattern. -/
theorem magnitude_max : magnitude 0x7F7FFFFF = 2 ^ 128 - 2 ^ 104 := by
  have h := magnitude_of_isSignificand (k := 253) (s := 2 ^ 24 - 1) ⟨by norm_num, .inr (by norm_num)⟩
  norm_num at h ⊢
  exact h

/-- The first pattern behind the finite ones, read with an unbounded exponent. -/
theorem magnitude_overflow : magnitude 0x7F800000 = 2 ^ 128 := by
  have h := magnitude_of_isSignificand (k := 254) (s := 2 ^ 23) ⟨by norm_num, .inr (by norm_num)⟩
  norm_num at h ⊢
  exact h

/-- The upper one of two points is as near to `q` exactly from their middle on. -/
theorem upper_nearer_iff {a b q : ℚ} (hab : a < b) : |b - q| ≤ |a - q| ↔ a + b ≤ 2 * q := by
  rw [← sq_le_sq]
  constructor <;> intro h <;> nlinarith

/-- The lower one of two points is as near to `q` exactly up to their middle. -/
theorem lower_nearer_iff {a b q : ℚ} (hab : a < b) : |a - q| ≤ |b - q| ↔ 2 * q ≤ a + b := by
  rw [← sq_le_sq]
  constructor <;> intro h <;> nlinarith

/-- Below the threshold the rounded pattern is finite: else the largest finite one were nearer. -/
theorem roundPattern_lt_of_lt {n d : Nat} (hn : 0 < n) (hd : 0 < d) (hq : (n : ℚ) / d < 2 ^ 128 - 2 ^ 103) :
    roundPattern n d < 0x7F800000 := by
  by_contra hover
  have hge := magnitude_strictMono.monotone (not_lt.1 hover)
  have hnear := (roundPattern_nearest hn hd 0x7F7FFFFF).1
  rw [magnitude_overflow] at hge
  rw [magnitude_max, upper_nearer_iff (by linarith)] at hnear
  linarith

/-- From the threshold on it is not: a finite pattern as near as the first one behind is the largest, at the threshold
itself, and of these two the even one is chosen. -/
theorem le_roundPattern_of_le {n d : Nat} (hn : 0 < n) (hd : 0 < d) (hq : 2 ^ 128 - 2 ^ 103 ≤ (n : ℚ) / d) :
    0x7F800000 ≤ roundPattern n d := by
  by_contra hfin
  have hle := magnitude_strictMono.monotone (show roundPattern n d ≤ 0x7F7FFFFF by omega)
  obtain ⟨hnear, htie⟩ := roundPattern_nearest hn hd 0x7F800000
  rw [magnitude_max] at hle
  rw [magnitude_overflow] at hnear htie
  have hmid := (lower_nearer_iff (by linarith)).1 hnear
  have hmax : roundPattern n d = 0x7F7FFFFF :=
    magnitude_strictMono.injective (by rw [magnitude_max]; linarith)
  have hback := (upper_nearer_iff (show magnitude (roundPattern n d) < 2 ^ 128 by linarith)).2
    (show _ ≤ 2 * ((n : ℚ) / d) by rw [hmax, magnitude_max]; linarith)
  have := htie (hnear.antisymm hback)
  omega

/-! ## The patterns -/

/-- `roundSpec` of a positive rational: the capped pattern, with the sign bit for a negative one. -/
theorem toNat_roundSpec {n : Nat} (hn : 0 < n) (neg : Bool) (d : Nat) :
    (roundSpec neg n d).toNat = min 0x7F800000 (roundPattern n d) + if neg then 2147483648 else 0 := by
  rw [roundSpec, if_neg hn.ne', roundMag_eq hn, BitVec.toNat_ofNat, Nat.mod_eq_of_lt]
  split <;> omega

/-- The default format rounds with `roundSpec`. -/
theorem roundF_of_spec {c : Config} (hc : c.fmt = .spec) (neg : Bool) (n d : Nat) :
    roundF c neg n d = roundSpec neg n d := by
  rw [roundF, hc]

/-- The default format rounds a positive rational to the capped pattern. -/
theorem toNat_roundF_pos {c : Config} (hc : c.fmt = .spec) {n : Nat} (hn : 0 < n) (d : Nat) :
    (roundF c false n d).toNat = min 0x7F800000 (roundPattern n d) := by
  rw [roundF_of_spec hc, toNat_roundSpec hn, if_neg Bool.false_ne_true, Nat.add_zero]

/-- A negative rational has the pattern of its magnitude with the sign bit. -/
theorem toNat_roundF_neg {c : Config} (hc : c.fmt = .spec) {n : Nat} (hn : 0 < n) (d : Nat) :
    (roundF c true n d).toNat = 2 ^ 31 + (roundF c false n d).toNat := by
  rw [toNat_roundF_pos hc hn, roundF_of_spec hc, toNat_roundSpec hn, if_pos rfl]
  omega

/-- Zero has the pattern of plus zero. -/
theorem roundF_zero {c : Config} (hc : c.fmt = .spec) (neg : Bool) (d : Nat) : roundF c neg 0 d = 0#32 := by
  rw [roundF_of_spec hc, roundSpec, if_pos rfl]

/-- Settles O41: the rounded pattern is the nearest of all, and it is capped exactly from the threshold on. -/
theorem roundToNearest : Obligations.RoundToNearest := by
  intro c n d hc hn hd q m
  have hm : m = min 0x7F800000 (roundPattern n d) := toNat_roundF_pos hc hn d
  refine ⟨fun hq => ?_, fun hq => ?_, toNat_roundF_neg hc hn d, roundF_zero hc false d, roundF_zero hc true d⟩
  · have hlt := roundPattern_lt_of_lt hn hd hq
    rw [hm, min_eq_right hlt.le]
    exact ⟨hlt, fun m' _ => roundPattern_nearest hn hd m'⟩
  · rw [hm, min_eq_left (le_roundPattern_of_le hn hd hq)]

end Sys2Proof.Machine
end

-- ==== The invariant of an idle unit, and what reset leaves (10_state.md R24, R40, R48) ====
section
/-! PROOFS. A unit at step 0 needs little to meet its invariant: this serves reset, every ending and every refusal. -/

namespace Sys2Proof.Machine

/-- An idle RD unit meets its invariant: nothing is outstanding, and a driver state `READY` has its calibration. -/
theorem rdInv_of_idle {s : State} (hseq : s.rd.seq = 0#4) (hidle : s.rd.buspend = false)
    (hd : s.rd.dstate = .uninit ∨ s.rd.dstate = .ready ∧ calValid s.rd.cal = true) (hx : s.rd.xbuf.length = 24)
    (hr : rspShape s.rd.rsp) (hport : s.bus.busrsp = none)
    (hfits : ∀ q ∈ s.bus.inFlight, fitsSpace q.reg q.len = true) (hsensor : s.bus.sensor.regs.wf) : RdInv s := by
  have hn : s.rd.seq.toNat = 0 := by rw [hseq]; rfl
  exact {
    initializing := by rcases hd with hd | ⟨hd, -⟩ <;> simp [hd, hn]
    reading := by rcases hd with hd | ⟨hd, -⟩ <;> simp [hd, hn]
    xbufLength := hx
    pending := fun hb => by simp [hidle] at hb
    port := fun hb => absurd hport hb
    held := fun hb => by simp [hidle] at hb
    fits := hfits
    calReady := fun hr => by
      obtain hd | ⟨-, hc⟩ := hd
      · rw [hd] at hr; cases hr
      · exact hc
    calA := fun hv => by omega
    calB := fun hv => by omega
    calC := fun hv => by omega
    burst := fun hv => by omega
    raw := fun hv => by omega
    temp := fun hv => by omega
    pres := fun hv => by omega
    hum := fun hv => by omega
    float := fun hv => by omega
    rspBusy := fun hv => absurd hseq hv
    rspForm := hr
    sensor := hsensor }

/-- An idle SP unit meets its invariant. -/
theorem spInv_of_idle {s : State} (hpseq : s.sp.pseq = 0#3) (hcap : 8 ≤ s.cfg.bufCap)
    (hw : s.sp.wbuf.length = s.cfg.bufCap) (hfs : s.sp.fs.length = 8) (hfl : s.sp.fl.length = 8)
    (hr : prspShape s.sp.prsp) : SpInv s := by
  have hn : s.sp.pseq.toNat = 0 := by rw [hpseq]; rfl
  exact {
    capacity := hcap
    wbufLength := hw
    fsLength := hfs
    flLength := hfl
    sentence := fun hv => by omega
    text := fun hv => by omega
    scanned := fun hv => by omega
    converted := fun hv => by omega
    prspBusy := fun hv => absurd hpseq hv
    prspForm := hr }

/-- Settles O49: `RST` is one assignment. -/
theorem resetLeaves : Obligations.ResetLeaves :=
  ⟨rfl, rfl, fun _ hk => by rw [step_of_nextTurn hk]; rfl⟩

/-- `RST` leads from the invariant to the invariant. -/
theorem assertReset_inv {s : State} (h : Inv s) : Inv (assertReset s) where
  rd := rdInv_of_idle rfl rfl (.inl rfl) rfl (.inl rfl) rfl h.rd.fits h.rd.sensor
  sp := spInv_of_idle rfl h.sp.capacity List.length_replicate rfl rfl (.inl rfl)

/-- Settles O50: both units are idle, nothing is in flight, and the default capacity is 100. -/
theorem invAtReset : Obligations.InvAtReset where
  rd := rdInv_of_idle rfl rfl (.inl rfl) rfl (.inl rfl) rfl (fun _ hq => nomatch hq) reset_memory_wf
  sp := spInv_of_idle rfl (by decide) List.length_replicate rfl rfl (.inl rfl)

end Sys2Proof.Machine
end

-- ==== Operand reads name a register without a value (10_state.md R22, 93_implementation_defined.md U1) ====
section
/-! PROOFS. A chain of register reads stops just where one of its registers holds no value, and names such a one. Said
of each step that reads registers, this is both where the step stops (`StopsByName`) and where it goes on
(`StepGoesOn`). -/

namespace Sys2Proof.Machine
open Sys2Proof.Expect

/-! ## Chains of reads -/

/-- A chain of reads whose registers without a value are those of `P`: it goes through if there is none, and else names
one of them. -/
def StopsFor {α : Type} (P : RegName → Prop) : Except Fault α → Prop
  | .ok _ => ∀ n, ¬ P n
  | .error e => ∃ n, P n ∧ e = .unspecRegister n

theorem stopsFor_congr {α : Type} {P Q : RegName → Prop} {x : Except Fault α} (h : ∀ n, P n ↔ Q n)
    (hx : StopsFor P x) : StopsFor Q x := by
  rwa [show Q = P from funext fun n => propext (h n).symm]

theorem stopsFor_ok {α : Type} (a : α) : StopsFor (fun _ => False) (.ok a : Except Fault α) := fun _ h => h

theorem stopsFor_bind {α β : Type} {P Q : RegName → Prop} {x : Except Fault α} {f : α → Except Fault β}
    (hx : StopsFor P x) (hf : ∀ a, x = .ok a → StopsFor Q (f a)) : StopsFor (fun n => P n ∨ Q n) (x >>= f) := by
  cases x with
  | error e =>
    obtain ⟨n, hn, he⟩ := hx
    exact ⟨n, .inl hn, he⟩
  | ok a =>
    have ha := hf a rfl
    show StopsFor _ (f a)
    cases hfa : f a with
    | error e =>
      rw [hfa] at ha
      obtain ⟨n, hn, he⟩ := ha
      exact ⟨n, .inr hn, he⟩
    | ok b =>
      rw [hfa] at ha
      exact fun n hn => hn.elim (hx n) (ha n)

/-- One register. -/
theorem stopsFor_get {α : Type} (r : Reg α) (n : RegName) : StopsFor (fun m => m = n ∧ r = .unspec) (r.get n) := by
  cases r with
  | unspec => exact ⟨n, ⟨rfl, rfl⟩, rfl⟩
  | val v => exact fun m h => nomatch h.2

/-- The registers of a list without a value, in the form of `operandsOf`. -/
def Empties (ops : List (RegName × Bool)) (n : RegName) : Prop := (n, false) ∈ ops

@[simp] theorem isVal_eq_false {α : Type} (r : Reg α) : r.isVal = false ↔ r = .unspec := by
  cases r <;> simp [Reg.isVal]

theorem stopsFor_nil {α : Type} (a : α) : StopsFor (Empties []) (.ok a : Except Fault α) := fun _ h => nomatch h

/-- One register in front of others. -/
theorem stopsFor_cons {α β : Type} {r : Reg α} {n : RegName} {ops : List (RegName × Bool)} {f : α → Except Fault β}
    (hf : ∀ v, StopsFor (Empties ops) (f v)) : StopsFor (Empties ((n, r.isVal) :: ops)) (r.get n >>= f) := by
  refine stopsFor_congr (fun m => ?_) (stopsFor_bind (stopsFor_get r n) fun v _ => hf v)
  rw [Empties, Empties, List.mem_cons, Prod.mk.injEq, eq_comm (a := false), isVal_eq_false]

/-- A chain of one register. -/
theorem stopsFor_single {α : Type} (r : Reg α) (n : RegName) : StopsFor (Empties [(n, r.isVal)]) (r.get n) := by
  refine stopsFor_congr (fun m => ?_) (stopsFor_get r n)
  rw [Empties, List.mem_singleton, Prod.mk.injEq, eq_comm (a := false), isVal_eq_false]

/-- A list of buffer cells. -/
theorem stopsFor_cellValues (n : RegName) (cs : List (Reg Byte)) :
    StopsFor (fun m => m = n ∧ Reg.unspec ∈ cs) (cellValues n cs) := by
  induction cs with
  | nil => exact fun m h => nomatch h.2
  | cons c cs ih =>
    cases c with
    | unspec => exact ⟨n, ⟨rfl, List.mem_cons_self⟩, rfl⟩
    | val v =>
      simp only [List.mem_cons, reduceCtorEq, false_or, cellValues, Reg.get_val]
      cases hcs : cellValues n cs <;> rw [hcs] at ih <;> exact ih

/-- A window of a buffer. -/
theorem stopsFor_readCells (n : RegName) (buf : List (Reg Byte)) (start len : Nat) :
    StopsFor (fun m => m = n ∧ ∃ k < len, regAt buf (start + k) = .unspec) (readCells n buf start len) := by
  refine stopsFor_congr (fun m => ?_) (stopsFor_cellValues n _)
  simp only [List.mem_map, List.mem_range]

/-! ## Outcomes -/

/-- The outcome of a step whose registers without a value are those of `P`: it goes on if there is none, and else is a
fault that names one of them. -/
def FaultsFor (P : RegName → Prop) (o : StepOut) : Prop :=
  (∃ n, P n ∧ o = .fault (.unspecRegister n)) ∨ (∀ n, ¬ P n) ∧ ∃ t, o = .next t

theorem faultsFor_congr {P Q : RegName → Prop} {o : StepOut} (h : ∀ n, P n ↔ Q n) (ho : FaultsFor P o) :
    FaultsFor Q o := by
  rwa [show Q = P from funext fun n => propext (h n).symm]

/-- A step that reads and then goes on. -/
theorem faultsFor_onRead {α : Type} {P : RegName → Prop} {x : Except Fault α} {k : α → StepOut} (hx : StopsFor P x)
    (hk : ∀ a, ∃ t, k a = .next t) : FaultsFor P (onRead x k) := by
  cases x with
  | error e =>
    obtain ⟨n, hn, rfl⟩ := hx
    exact .inl ⟨n, hn, rfl⟩
  | ok a => exact .inr ⟨hx, hk a⟩

/-- A step that reads, and reads again. -/
theorem faultsFor_onRead_onRead {α β : Type} {P Q : RegName → Prop} {x : Except Fault α} {y : Except Fault β}
    {k : α → β → StepOut} (hx : StopsFor P x) (hy : StopsFor Q y) (hk : ∀ a b, ∃ t, k a b = .next t) :
    FaultsFor (fun n => P n ∨ Q n) (onRead x fun a => onRead y (k a)) := by
  cases x with
  | error e =>
    obtain ⟨n, hn, rfl⟩ := hx
    exact .inl ⟨n, .inl hn, rfl⟩
  | ok a =>
    rcases faultsFor_onRead hy (hk a) with ⟨n, hn, he⟩ | ⟨hn, ht⟩
    · exact .inl ⟨n, .inr hn, he⟩
    · exact .inr ⟨fun n h => h.elim (hx n) (hn n), ht⟩

/-! ## The operands of each step -/

/-- A step whose registers without a value are those of `operandsOf`. -/
theorem lacks_iff_of_operands {s : State} {i : Instr} (h : i ≠ .rUnpk ∧ i ≠ .pSplit ∧ i ≠ .pScan) (n : RegName) :
    Empties (operandsOf s i) n ↔ Lacks s i n := by
  obtain ⟨h1, h2, h3⟩ := h
  simp only [Lacks, Empties, h1, h2, h3, false_and, or_false]

theorem lacks_rUnpk_iff (s : State) (n : RegName) :
    Lacks s .rUnpk n ↔ n = .xbuf ∧ ∃ k < 8, regAt s.rd.xbuf k = .unspec := by
  simp [Lacks, operandsOf]

theorem lacks_pSplit_iff (s : State) (n : RegName) :
    Lacks s .pSplit n ↔ n = .wlen ∧ s.sp.wlen = .unspec ∨
      n = .wbuf ∧ ∃ len k, s.sp.wlen = .val len ∧ k < len ∧ regAt s.sp.wbuf k = .unspec := by
  simp [Lacks, operandsOf, eq_comm (a := false)]

/-- The registers of field `j` that hold no value: its place, or a byte of it. -/
def FieldLacks (s : State) (j : Nat) (n : RegName) : Prop :=
  n = .fs j ∧ regAt s.sp.fs j = .unspec ∨ n = .fl j ∧ regAt s.sp.fl j = .unspec ∨
    n = .wbuf ∧ ∃ a len k, regAt s.sp.fs j = .val a ∧ regAt s.sp.fl j = .val len ∧ k < len ∧
      regAt s.sp.wbuf (a + k) = .unspec

theorem lacks_pScan_iff (s : State) (n : RegName) :
    Lacks s .pScan n ↔ ∃ j, 2 ≤ j ∧ j ≤ 7 ∧ FieldLacks s j n := by
  simp [Lacks, operandsOf, FieldLacks]

theorem stopsFor_fieldText (s : State) (j : Nat) : StopsFor (FieldLacks s j) (fieldText s j) := by
  refine stopsFor_bind (stopsFor_get _ _) fun a ha => stopsFor_bind (stopsFor_get _ _) fun len hlen =>
    stopsFor_congr (fun n => ?_) (stopsFor_readCells .wbuf s.sp.wbuf a len)
  simp [Reg.get_ok ha, Reg.get_ok hlen]

theorem stopsFor_fixFields (s : State) : StopsFor (fun n => ∃ j, 2 ≤ j ∧ j ≤ 7 ∧ FieldLacks s j n) (fixFields s) := by
  refine stopsFor_congr (fun n => ?_) <|
    stopsFor_bind (stopsFor_fieldText s 2) fun _ _ => stopsFor_bind (stopsFor_fieldText s 3) fun _ _ =>
    stopsFor_bind (stopsFor_fieldText s 4) fun _ _ => stopsFor_bind (stopsFor_fieldText s 5) fun _ _ =>
    stopsFor_bind (stopsFor_fieldText s 6) fun _ _ => stopsFor_bind (stopsFor_fieldText s 7) fun _ _ => stopsFor_ok _
  constructor
  · rintro (h | h | h | h | h | h | h)
    exacts [⟨2, by decide, by decide, h⟩, ⟨3, by decide, by decide, h⟩, ⟨4, by decide, by decide, h⟩,
      ⟨5, by decide, by decide, h⟩, ⟨6, by decide, by decide, h⟩, ⟨7, by decide, by decide, h⟩, h.elim]
  · rintro ⟨j, h2, h7, h⟩
    interval_cases j <;> simp [h]

theorem stopsFor_workText (s : State) : StopsFor (fun n => n = .wlen ∧ s.sp.wlen = .unspec ∨
    n = .wbuf ∧ ∃ len k, s.sp.wlen = .val len ∧ k < len ∧ regAt s.sp.wbuf k = .unspec) (workText s) := by
  refine stopsFor_bind (stopsFor_get _ _) fun len hlen =>
    stopsFor_congr (fun n => ?_) (stopsFor_readCells .wbuf s.sp.wbuf 0 len)
  simp [Reg.get_ok hlen]

theorem stopsFor_integerStage (s : State) : StopsFor (Empties (operandsOf s .rCvt)) (integerStage s) :=
  stopsFor_cons fun _ => stopsFor_cons fun _ => stopsFor_cons fun _ => stopsFor_nil _

theorem stopsFor_floatStage (s : State) :
    StopsFor (Empties [(.tf, s.rd.tf.isVal), (.pf, s.rd.pf.isVal), (.hf, s.rd.hf.isVal)]) (floatStage s) :=
  stopsFor_cons fun _ => stopsFor_cons fun _ => stopsFor_cons fun _ => stopsFor_nil _

/-! ## The steps that read registers -/

/-- The steps with register operands. -/
def readsRegisters : Instr → Bool
  | .rUnpk | .rCmpt | .rCmpp | .rCmph | .rCvt | .rDone => true
  | .pPfx | .pCopy | .pSplit | .pCnt | .pScan | .pConv | .pDone => true
  | .init | .read | .parse _ | .idle | .iId | .iCala | .iCalb | .iCalc | .iWhum | .iWmeas | .iWcfg | .iDone => false
  | .rData | .pIdle | .rd .. | .wr .. => false

/-- Only such a step lacks a register. -/
theorem readsRegisters_of_lacks {s : State} {n : RegName} : ∀ {i : Instr}, Lacks s i n → readsRegisters i = true
  | _, .inr (.inl ⟨rfl, _⟩) | _, .inr (.inr (.inl ⟨rfl, _⟩)) | _, .inr (.inr (.inr ⟨rfl, _⟩)) => rfl
  | .rCmpt, .inl _ | .rCmpp, .inl _ | .rCmph, .inl _ | .rCvt, .inl _ | .rDone, .inl _ => rfl
  | .pPfx, .inl _ | .pCopy, .inl _ | .pSplit, .inl _ | .pCnt, .inl _ | .pConv, .inl _ | .pDone, .inl _ => rfl

/-- Every step with register operands goes on if they all hold values, and else faults at one that does not. -/
theorem exec_faultsFor_lacks (s : State) : ∀ i : Instr, readsRegisters i = true → FaultsFor (Lacks s i) (exec i s)
  | .rUnpk, _ => by
    refine faultsFor_congr (fun n => ?_) <|
      faultsFor_onRead (stopsFor_readCells .xbuf s.rd.xbuf 0 Config.dataLen) fun _ => ⟨_, rfl⟩
    simp only [lacks_rUnpk_iff, Config.dataLen, Nat.zero_add]
  | .rCmpt, _ =>
    faultsFor_congr (lacks_iff_of_operands (by decide)) <| faultsFor_onRead (x := tempOperands s)
      (stopsFor_cons fun _ => stopsFor_cons fun _ => stopsFor_cons fun _ => stopsFor_cons fun _ => stopsFor_nil _)
      fun _ => ⟨_, rfl⟩
  | .rCmpp, _ =>
    faultsFor_congr (lacks_iff_of_operands (by decide)) <| faultsFor_onRead (x := presOperands s)
      (stopsFor_cons fun _ => stopsFor_cons fun _ => stopsFor_cons fun _ => stopsFor_cons fun _ =>
        stopsFor_cons fun _ => stopsFor_cons fun _ => stopsFor_cons fun _ => stopsFor_cons fun _ =>
        stopsFor_cons fun _ => stopsFor_cons fun _ => stopsFor_cons fun _ => stopsFor_nil _)
      fun _ => ⟨_, rfl⟩
  | .rCmph, _ =>
    faultsFor_congr (lacks_iff_of_operands (by decide)) <| faultsFor_onRead (x := humOperands s)
      (stopsFor_cons fun _ => stopsFor_cons fun _ => stopsFor_cons fun _ => stopsFor_cons fun _ =>
        stopsFor_cons fun _ => stopsFor_cons fun _ => stopsFor_cons fun _ => stopsFor_cons fun _ => stopsFor_nil _)
      fun _ => ⟨_, rfl⟩
  | .rCvt, _ =>
    faultsFor_congr (lacks_iff_of_operands (by decide)) <| faultsFor_onRead (stopsFor_integerStage s) fun _ => ⟨_, rfl⟩
  | .rDone, _ => by
    refine faultsFor_congr (fun n => ?_) <| faultsFor_onRead_onRead (stopsFor_floatStage s) (stopsFor_integerStage s)
      fun _ _ => ⟨_, rfl⟩
    rw [← lacks_iff_of_operands (by decide)]
    exact List.mem_append.symm
  | .pPfx, _ | .pCopy, _ | .pCnt, _ =>
    faultsFor_congr (lacks_iff_of_operands (by decide)) <| faultsFor_onRead (stopsFor_single _ _) fun _ => ⟨_, rfl⟩
  | .pSplit, _ =>
    faultsFor_congr (fun n => (lacks_pSplit_iff s n).symm) <|
      faultsFor_onRead (stopsFor_workText s) fun _ => ⟨_, rfl⟩
  | .pScan, _ =>
    faultsFor_congr (fun n => (lacks_pScan_iff s n).symm) <|
      faultsFor_onRead (stopsFor_fixFields s) fun _ => ⟨_, rfl⟩
  | .pConv, _ =>
    faultsFor_congr (lacks_iff_of_operands (by decide)) <| faultsFor_onRead (x := convOperands s)
      (stopsFor_cons fun _ => stopsFor_cons fun _ => stopsFor_cons fun _ => stopsFor_cons fun _ => stopsFor_nil _)
      fun _ => ⟨_, rfl⟩
  | .pDone, _ =>
    faultsFor_congr (lacks_iff_of_operands (by decide)) <| faultsFor_onRead (x := fixPayload s)
      (stopsFor_cons fun _ => stopsFor_cons fun _ => stopsFor_cons fun _ => stopsFor_cons fun _ => stopsFor_nil _)
      fun _ => ⟨_, rfl⟩

/-! ## StopsByName -/

/-- A step that lacks a register faults, and names one it lacks. -/
theorem exec_of_lacks {s : State} {i : Instr} {n : RegName} (h : Lacks s i n) :
    ∃ m, Lacks s i m ∧ exec i s = .fault (.unspecRegister m) :=
  (exec_faultsFor_lacks s i (readsRegisters_of_lacks h)).resolve_right fun ⟨hn, _⟩ => hn n h

/-- A step that lacks no register goes on. -/
theorem exec_of_not_lacks {s : State} {i : Instr} (hi : readsRegisters i = true) (h : ∀ n, ¬ Lacks s i n) :
    ∃ t, exec i s = .next t :=
  ((exec_faultsFor_lacks s i hi).resolve_left fun ⟨n, hn, _⟩ => h n hn).2

/-- Settles O30: the ports and the driver states by their tests, the operands by `exec_of_lacks`. -/
theorem stopsByName : Obligations.StopsByName := by
  intro s
  refine ⟨fun hs => ?_, fun operand hs => ?_, fun hs hd => ?_, fun i n => exec_of_lacks,
    fun hk => ⟨fun hp => ?_, fun hp => ?_⟩⟩
  · have hr : ¬ cmdReady s = true := (cmdReady_iff s).not.2 hs
    exact ⟨if_neg hr, if_neg hr⟩
  · exact if_neg ((pcmdReady_iff s).not.2 hs)
  · show execInit s = _
    rcases hd with hd | hd <;> simp [execInit, (cmdReady_iff s).2 hs, hd]
  · rw [step_of_nextTurn hk]
    exact if_neg (by simp [hp])
  · rw [step_of_nextTurn hk]
    exact if_pos hp

end Sys2Proof.Machine
end

-- ==== The RD side of the invariant (10_state.md R22 to R37, 20_memory.md R76) ====
section
/-! PROOFS. How each shared operation of the RD unit and its bus carries `RdInv`, then each step by what it can do. -/

namespace Sys2Proof.Machine

/-! ## What the invariant says of a state -/

/-- `RdInv` is about the parameters, the RD unit and its bus. -/
theorem RdInv.congr {s t : State} (h : RdInv s) (hcfg : t.cfg = s.cfg) (hrd : t.rd = s.rd) (hbus : t.bus = s.bus) :
    RdInv t := by
  obtain ⟨cfg, rd, sp, bus, env⟩ := t
  subst hcfg hrd hbus
  exact { h with }

theorem calValid_iff (c : Cal) : calValid c = true ↔ calHasA c = true ∧ c.h1.isVal = true ∧ calHasC c = true := by
  simp [calValid, and_assoc]

/-- The calibration is complete from step 5 on. -/
theorem RdInv.calValid_of_seq {s : State} (h : RdInv s) (hs : 5 ≤ s.rd.seq.toNat) : calValid s.rd.cal = true :=
  (calValid_iff _).2 ⟨h.calA (by omega), h.calB (by omega), h.calC hs⟩

/-- At a step without a request nothing is outstanding. -/
theorem RdInv.not_pending {s : State} (h : RdInv s) (hs : stepRequest s.cfg s.rd.seq = none) :
    s.rd.buspend = false := by
  by_contra hb
  obtain ⟨q, hq, -⟩ := h.pending (by simpa using hb)
  rw [hs] at hq
  cases hq

/-- With nothing outstanding the port is empty. -/
theorem RdInv.port_empty {s : State} (h : RdInv s) (hidle : s.rd.buspend = false) : s.bus.busrsp = none := by
  by_contra hn
  have hb := (h.port hn).1
  rw [hidle] at hb
  cases hb

/-- An idle unit has nothing outstanding. -/
theorem RdInv.not_pending_of_idle {s : State} (h : RdInv s) (hs : s.rd.seq = 0#4) : s.rd.buspend = false :=
  h.not_pending (by rw [hs]; rfl)

/-- The driver state of an idle unit is one of the two idle ones (10_state.md R24). -/
theorem RdInv.dstate_of_idle {s : State} (h : RdInv s) (hs : s.rd.seq = 0#4) :
    s.rd.dstate = .uninit ∨ s.rd.dstate = .ready ∧ calValid s.rd.cal = true := by
  have hn : s.rd.seq.toNat = 0 := by rw [hs]; rfl
  cases hd : s.rd.dstate with
  | uninit => exact .inl rfl
  | ready => exact .inr ⟨rfl, h.calReady hd⟩
  | initializing => have := h.initializing.1 hd; omega
  | reading => have := h.reading.1 hd; omega

/-! ## The response register -/

theorem Err.code_ne_statusOk (e : Err) : e.code ≠ statusOk := by cases e <;> decide

/-- A command that ends in an error has a response of the right form. -/
theorem rspShape_ended (op : Byte) (e : Err) : rspShape (Rsp.ended op e.code) :=
  .inr (.inl ⟨op, e.code, rfl, fun _ => e.code_ne_statusOk⟩)

/-! ## The halves of a transfer -/

/-- Issuing the request of the current step. -/
theorem issue_rdInv {s : State} {q : BusReq} (h : RdInv s) (hidle : s.rd.buspend = false)
    (hq : stepRequest s.cfg s.rd.seq = some q) (hf : fitsSpace q.reg q.len = true) : RdInv (issue q s) :=
  { h with
    pending := fun _ => ⟨q, hq, rfl⟩
    port := fun hn => absurd (h.port_empty hidle) hn
    held := fun _ _ => ⟨s.bus.inFlight, q, rfl, rfl⟩
    fits := fun r hr => by
      rcases List.mem_append.1 hr with hr | hr
      · exact h.fits r hr
      · rwa [List.mem_singleton.1 hr] }

/-- Taking the response. -/
theorem takeResponse_rdInv {s : State} (h : RdInv s) : RdInv (takeResponse s) :=
  { h with
    pending := nofun
    port := fun hn => absurd rfl hn
    held := nofun }

/-- Loading at most 24 bytes, but at the step that reads them. -/
theorem loadXbuf_rdInv {s : State} {data : List Byte} (h : RdInv s) (hn : data.length ≤ 24)
    (hs : s.rd.seq.toNat ≠ 10) : RdInv (loadXbuf data s) :=
  { h with
    xbufLength := by
      rw [loadXbuf_rd, overwrite_length _ _ (hn.trans_eq h.xbufLength.symm), h.xbufLength]
    burst := fun hv => absurd hv hs }

/-! ## Going to the next step, and ending a command -/

/-- What the step before step `v` of a command has written for the later ones. -/
def writtenBefore (v : Nat) (r : RdUnit) : Prop :=
  match v with
  | 3 => calHasA r.cal = true
  | 4 => r.cal.h1.isVal = true
  | 5 => calHasC r.cal = true
  | 10 => ∀ c ∈ r.xbuf.take 8, c.isVal = true
  | 11 => r.rawP.isVal = true ∧ r.rawT.isVal = true ∧ r.rawH.isVal = true
  | 12 => r.tfine.isVal = true ∧ r.tint.isVal = true
  | 13 => r.pint.isVal = true
  | 14 => r.hint.isVal = true
  | 15 => r.tf.isVal = true ∧ r.pf.isVal = true ∧ r.hf.isVal = true
  | _ => True

/-- What holds from `n` on holds at the successor `b` of `a` if it held at `a`, or if `n` is `b`. -/
theorem of_le_succ {a b n : Nat} {p : Prop} (hb : b = a + 1) (old : n ≤ a → p) (new : b = n → p) (hn : n ≤ b) : p :=
  hn.eq_or_lt.elim (fun e => new e.symm) fun hl => old (by omega)

/-- From a step `k` inside a command to the next one of the same command. -/
theorem setSeq_rdInv {s : State} {k v : BitVec 4} (h : RdInv s) (hidle : s.rd.buspend = false) (hs : s.rd.seq = k)
    (hk : k.toNat ≠ 0 ∧ k.toNat ≠ 8 ∧ v.toNat = k.toNat + 1) (hnew : writtenBefore v.toNat s.rd) :
    RdInv (setSeq v s) := by
  subst hs
  obtain ⟨h0, h8, hv⟩ := hk
  have hnew' : ∀ {n}, v.toNat = n → writtenBefore n s.rd := fun e => e ▸ hnew
  exact { h with
    initializing := h.initializing.trans (by simp only [setSeq_rd]; omega)
    reading := h.reading.trans (by simp only [setSeq_rd]; omega)
    pending := fun hb => absurd hb (by simp [hidle])
    held := fun hb => absurd hb (by simp [hidle])
    calA := of_le_succ hv h.calA hnew'
    calB := of_le_succ hv h.calB hnew'
    calC := of_le_succ hv h.calC hnew'
    burst := hnew'
    raw := of_le_succ hv h.raw hnew'
    temp := of_le_succ hv h.temp hnew'
    pres := of_le_succ hv h.pres hnew'
    hum := of_le_succ hv h.hum hnew'
    float := of_le_succ hv h.float hnew'
    rspBusy := fun _ => h.rspBusy fun e => h0 (by rw [e]; rfl) }

/-- Back to step 0 and `READY` with a response. -/
theorem finish_rdInv {s : State} {r : Rsp} (h : RdInv s) (hidle : s.rd.buspend = false)
    (hc : calValid s.rd.cal = true) (hr : rspShape r) :
    RdInv (s.withRd { s.rd with dstate := .ready, rsp := r, seq := 0#4 }) :=
  rdInv_of_idle rfl hidle (.inr ⟨rfl, hc⟩) h.xbufLength hr (h.port_empty hidle) h.fits h.sensor

/-- A failed `INIT`. -/
theorem raiseRd_init_rdInv {s : State} (e : Err) (h : RdInv s) (hidle : s.rd.buspend = false) :
    RdInv (raiseRd opInit e s) :=
  rdInv_of_idle rfl rfl (.inl rfl) List.length_replicate (rspShape_ended _ e) (h.port_empty hidle) h.fits h.sensor

/-- A failed `READ`. -/
theorem raiseRd_read_rdInv {s : State} (e : Err) (h : RdInv s) (hidle : s.rd.buspend = false)
    (hc : calValid s.rd.cal = true) : RdInv (raiseRd opRead e s) :=
  rdInv_of_idle rfl rfl (.inr ⟨rfl, hc⟩) h.xbufLength (rspShape_ended _ e) (h.port_empty hidle) h.fits h.sensor

/-! ## The commands -/

/-- The opcodes that `CMD` accepts (30_encoding.md R98). -/
theorem decodeCmd_ok_cases {op : Byte} {i : Instr} (h : decodeCmd op = .ok i) : i = .init ∨ i = .read := by
  unfold decodeCmd at h
  split at h
  · cases h; exact .inl rfl
  · split at h <;> cases h
    exact .inr rfl

/-- A refused command. -/
theorem refuseRd_rdInv {s : State} (op : Byte) (e : Err) (h : RdInv s) (hs : s.rd.seq = 0#4) :
    RdInv (refuseRd op e (clearRsp s)) :=
  rdInv_of_idle hs (h.not_pending_of_idle hs) (h.dstate_of_idle hs) h.xbufLength (rspShape_ended op e)
    (h.port_empty (h.not_pending_of_idle hs)) h.fits h.sensor

/-- The start of a command: at most the calibration is written before its first step. -/
theorem start_rdInv {s : State} {d : DState} {v : BitVec 4} (h : RdInv s) (hs : s.rd.seq = 0#4)
    (hi : d = .initializing ↔ 1 ≤ v.toNat ∧ v.toNat ≤ 8) (hr : d = .reading ↔ 9 ≤ v.toNat) (hd : d ≠ .ready)
    (hv : v.toNat ≤ 9) (hc : 3 ≤ v.toNat → calValid s.rd.cal = true) :
    RdInv (s.withRd { s.rd with rsp := Rsp.cleared, dstate := d, seq := v }) := by
  have hidle := h.not_pending_of_idle hs
  have hcal := fun hl => (calValid_iff s.rd.cal).1 (hc hl)
  exact { h with
    initializing := hi
    reading := hr
    pending := fun hb => absurd hb (by simp [hidle])
    held := fun hb => absurd hb (by simp [hidle])
    calReady := fun he => absurd he hd
    calA := fun hl => (hcal hl).1
    calB := fun hl => (hcal (Nat.le_of_succ_le hl)).2.1
    calC := fun hl => (hcal (le_trans (by decide) hl)).2.2
    burst := fun he => absurd (he.ge.trans hv) (by decide)
    raw := fun hl => absurd (hl.trans hv) (by decide)
    temp := fun hl => absurd (hl.trans hv) (by decide)
    pres := fun hl => absurd (hl.trans hv) (by decide)
    hum := fun hl => absurd (hl.trans hv) (by decide)
    float := fun hl => absurd (hl.trans hv) (by decide)
    rspBusy := fun _ => rfl
    rspForm := .inl rfl }

/-- `INIT` taken on the port starts in `UNINIT` and is refused in `READY`. -/
theorem execInit_rdInv {s t : State} (h : RdInv s) (hs : s.rd.seq = 0#4) (ht : execInit s = .next t) : RdInv t := by
  rw [execInit, if_pos ((cmdReady_iff s).2 hs)] at ht
  rcases h.dstate_of_idle hs with hd | ⟨hd, -⟩ <;> rw [hd] at ht <;> cases ht
  · exact start_rdInv (s := s) h hs (by decide) (by decide) (by decide) (by decide) (fun hl => absurd hl (by decide))
  · exact refuseRd_rdInv _ _ h hs

/-- `READ` taken on the port is refused in `UNINIT` and starts in `READY`. -/
theorem execRead_rdInv {s t : State} (h : RdInv s) (hs : s.rd.seq = 0#4) (ht : execRead s = .next t) : RdInv t := by
  rw [execRead, if_pos ((cmdReady_iff s).2 hs)] at ht
  rcases h.dstate_of_idle hs with hd | ⟨hd, hc⟩ <;> rw [hd] at ht <;> cases ht
  · exact refuseRd_rdInv _ _ h hs
  · exact start_rdInv (s := s) h hs (by decide) (by decide) (by decide) (by decide) fun _ => hc

/-! ## The steps of `INIT` and the burst -/

/-- A reading step: it is enough that its failure and its success carry the invariant. -/
theorem readTransfer_rdInv {s t : State} {reg : Byte} {n : Nat} {op : Byte} {e : Err}
    {done : List Byte → State → State} (h : RdInv s)
    (hq : stepRequest s.cfg s.rd.seq = some (readReq s.cfg reg n)) (hs : s.rd.seq.toNat ≠ 10) (hn : n ≤ 24)
    (hfail : RdInv (raiseRd op e (takeResponse s)))
    (hdone : ∀ data u, data.length = n → u.rd.seq = s.rd.seq → u.rd.buspend = false →
      u.rd.xbuf.take n = data.map Reg.val → RdInv u → RdInv (done data u))
    (ht : readTransfer reg n op e done s = .next t) : RdInv t := by
  obtain ⟨hidle, hf, rfl⟩ | ⟨-, -, rfl⟩ | ⟨r, -, -, -, rfl⟩ | ⟨r, data, -, -, hj, rfl⟩ := readTransfer_cases ht
  case inl => exact issue_rdInv h hidle hq hf
  case inr.inl => exact h
  case inr.inr.inl => exact hfail
  case inr.inr.inr =>
    obtain ⟨-, -, hl⟩ := judgeRead_some hj
    exact hdone data _ hl rfl rfl (hl ▸ overwrite_take _ _)
      (loadXbuf_rdInv (takeResponse_rdInv h) (hl.trans_le hn) hs)

/-- A writing step of `INIT`. -/
theorem writeTransfer_rdInv {s t : State} {reg v : Byte} {k next : BitVec 4} (h : RdInv s)
    (hq : stepRequest s.cfg s.rd.seq = some (writeReq s.cfg reg v)) (hs : s.rd.seq = k)
    (hk : k.toNat ≠ 0 ∧ k.toNat ≠ 8 ∧ next.toNat = k.toNat + 1) (hnew : writtenBefore next.toNat s.rd)
    (ht : writeTransfer reg v next s = .next t) : RdInv t := by
  obtain ⟨hidle, hf, rfl⟩ | ⟨-, -, rfl⟩ | ⟨r, -, -, -, rfl⟩ | ⟨r, -, -, -, rfl⟩ := writeTransfer_cases ht
  case inl => exact issue_rdInv h hidle hq hf
  case inr.inl => exact h
  case inr.inr.inl => exact raiseRd_init_rdInv _ (takeResponse_rdInv h) rfl
  case inr.inr.inr => exact setSeq_rdInv (takeResponse_rdInv h) rfl hs hk hnew

/-- Block A in `CAL`. -/
theorem storeBlockA_rdInv {s : State} (x : BlockA) (h : RdInv s) : RdInv (storeBlockA x s) :=
  { h with
    calA := fun _ => rfl
    calReady := fun hd => by
      obtain ⟨-, hB, hC⟩ := (calValid_iff _).1 (h.calReady hd)
      exact (calValid_iff _).2 ⟨rfl, hB, hC⟩ }

/-- Block B in `CAL`. -/
theorem storeBlockB_rdInv {s : State} (x : Byte) (h : RdInv s) : RdInv (storeBlockB x s) :=
  { h with
    calB := fun _ => rfl
    calReady := fun hd => by
      obtain ⟨hA, -, hC⟩ := (calValid_iff _).1 (h.calReady hd)
      exact (calValid_iff _).2 ⟨hA, rfl, hC⟩ }

/-- Block C in `CAL`. -/
theorem storeBlockC_rdInv {s : State} (x : BlockC) (h : RdInv s) : RdInv (storeBlockC x s) :=
  { h with
    calC := fun _ => rfl
    calReady := fun hd => by
      obtain ⟨hA, hB, -⟩ := (calValid_iff _).1 (h.calReady hd)
      exact (calValid_iff _).2 ⟨hA, hB, rfl⟩ }

theorem execIdle_rdInv {s t : State} (h : RdInv s) (hs : s.rd.seq = 0#4) (ht : execIdle s = .next t) : RdInv t := by
  cases ht
  exact rdInv_of_idle hs (h.not_pending_of_idle hs) (h.dstate_of_idle hs) h.xbufLength h.rspForm rfl h.fits h.sensor

theorem execIId_rdInv {s t : State} (h : RdInv s) (hs : s.rd.seq = 1#4) (ht : execIId s = .next t) : RdInv t := by
  refine readTransfer_rdInv h (by rw [hs]; rfl) (by rw [hs]; decide) (by decide)
    (raiseRd_init_rdInv _ (takeResponse_rdInv h) rfl) (fun data u _ hu hidle _ hinv => ?_) ht
  unfold checkIdentity
  split
  · exact setSeq_rdInv hinv hidle (hu.trans hs) (by decide) trivial
  · exact raiseRd_init_rdInv _ hinv hidle

theorem execICala_rdInv {s t : State} (h : RdInv s) (hs : s.rd.seq = 2#4) (ht : execICala s = .next t) : RdInv t :=
  readTransfer_rdInv h (by rw [hs]; rfl) (by rw [hs]; decide) (by decide)
    (raiseRd_init_rdInv _ (takeResponse_rdInv h) rfl) (fun _ _ _ hu hidle _ hinv =>
      setSeq_rdInv (v := 3#4) (storeBlockA_rdInv _ hinv) hidle (hu.trans hs) (by decide) rfl) ht

theorem execICalb_rdInv {s t : State} (h : RdInv s) (hs : s.rd.seq = 3#4) (ht : execICalb s = .next t) : RdInv t :=
  readTransfer_rdInv h (by rw [hs]; rfl) (by rw [hs]; decide) (by decide)
    (raiseRd_init_rdInv _ (takeResponse_rdInv h) rfl) (fun _ _ _ hu hidle _ hinv =>
      setSeq_rdInv (v := 4#4) (storeBlockB_rdInv _ hinv) hidle (hu.trans hs) (by decide) rfl) ht

theorem execICalc_rdInv {s t : State} (h : RdInv s) (hs : s.rd.seq = 4#4) (ht : execICalc s = .next t) : RdInv t :=
  readTransfer_rdInv h (by rw [hs]; rfl) (by rw [hs]; decide) (by decide)
    (raiseRd_init_rdInv _ (takeResponse_rdInv h) rfl) (fun _ _ _ hu hidle _ hinv =>
      setSeq_rdInv (v := 5#4) (storeBlockC_rdInv _ hinv) hidle (hu.trans hs) (by decide) rfl) ht

theorem execIWhum_rdInv {s t : State} (h : RdInv s) (hs : s.rd.seq = 5#4) (ht : execIWhum s = .next t) : RdInv t :=
  writeTransfer_rdInv (next := 6#4) h (by rw [hs]; rfl) hs (by decide) trivial ht

theorem execIWmeas_rdInv {s t : State} (h : RdInv s) (hs : s.rd.seq = 6#4) (ht : execIWmeas s = .next t) : RdInv t :=
  writeTransfer_rdInv (next := 7#4) h (by rw [hs]; rfl) hs (by decide) trivial ht

theorem execIWcfg_rdInv {s t : State} (h : RdInv s) (hs : s.rd.seq = 7#4) (ht : execIWcfg s = .next t) : RdInv t :=
  writeTransfer_rdInv (next := 8#4) h (by rw [hs]; rfl) hs (by decide) trivial ht

/-- The end of `INIT`: the three blocks are decoded. -/
theorem execIDone_rdInv {s t : State} (h : RdInv s) (hs : s.rd.seq = 8#4) (ht : execIDone s = .next t) : RdInv t := by
  cases ht
  exact finish_rdInv h (h.not_pending (by rw [hs]; rfl))
    (h.calValid_of_seq (by rw [hs]; decide)) (.inr (.inl ⟨_, _, rfl, by decide⟩))

theorem execRData_rdInv {s t : State} (h : RdInv s) (hs : s.rd.seq = 9#4) (ht : execRData s = .next t) : RdInv t := by
  refine readTransfer_rdInv h (by rw [hs]; rfl) (by rw [hs]; decide) (by decide)
    (raiseRd_read_rdInv _ (takeResponse_rdInv h) rfl (h.calValid_of_seq (by rw [hs]; decide)))
    (fun data u _ hu hidle hx hinv => setSeq_rdInv hinv hidle (hu.trans hs) (by decide) fun c hc => ?_) ht
  rw [show u.rd.xbuf.take 8 = data.map Reg.val from hx] at hc
  obtain ⟨b, -, rfl⟩ := List.mem_map.1 hc
  rfl

/-! ## The steps of `READ` after the burst

Each writes its results and goes to the next step; the results are what the invariant asks for there. -/

theorem execRUnpk_rdInv {s t : State} (h : RdInv s) (hs : s.rd.seq = 10#4) (ht : execRUnpk s = .next t) : RdInv t := by
  obtain ⟨d, -, ht⟩ := onRead_next ht
  cases ht
  exact setSeq_rdInv (s := s.withRd { s.rd with
      rawP := .val (unpackP d), rawT := .val (unpackT d), rawH := .val (unpackH d) })
    { h with raw := fun _ => ⟨rfl, rfl, rfl⟩ } (h.not_pending (by rw [hs]; rfl)) hs (by decide) ⟨rfl, rfl, rfl⟩

theorem execRCmpt_rdInv {s t : State} (h : RdInv s) (hs : s.rd.seq = 11#4) (ht : execRCmpt s = .next t) : RdInv t := by
  obtain ⟨x, -, ht⟩ := onRead_next ht
  cases ht
  exact setSeq_rdInv (s := s.withRd { s.rd with tfine := .val _, tint := .val _ })
    { h with temp := fun _ => ⟨rfl, rfl⟩ } (h.not_pending (by rw [hs]; rfl)) hs (by decide) ⟨rfl, rfl⟩

theorem execRCmpp_rdInv {s t : State} (h : RdInv s) (hs : s.rd.seq = 12#4) (ht : execRCmpp s = .next t) : RdInv t := by
  obtain ⟨x, -, ht⟩ := onRead_next ht
  cases ht
  exact setSeq_rdInv (s := s.withRd { s.rd with pint := .val _ })
    { h with pres := fun _ => rfl } (h.not_pending (by rw [hs]; rfl)) hs (by decide) rfl

theorem execRCmph_rdInv {s t : State} (h : RdInv s) (hs : s.rd.seq = 13#4) (ht : execRCmph s = .next t) : RdInv t := by
  obtain ⟨x, -, ht⟩ := onRead_next ht
  cases ht
  exact setSeq_rdInv (s := s.withRd { s.rd with hint := .val _ })
    { h with hum := fun _ => rfl } (h.not_pending (by rw [hs]; rfl)) hs (by decide) rfl

theorem execRCvt_rdInv {s t : State} (h : RdInv s) (hs : s.rd.seq = 14#4) (ht : execRCvt s = .next t) : RdInv t := by
  obtain ⟨x, -, ht⟩ := onRead_next ht
  cases ht
  exact setSeq_rdInv (s := s.withRd { s.rd with tf := .val _, pf := .val _, hf := .val _ })
    { h with float := fun _ => ⟨rfl, rfl, rfl⟩ } (h.not_pending (by rw [hs]; rfl)) hs (by decide) ⟨rfl, rfl, rfl⟩

/-- The end of `READ`: a response with payload. -/
theorem execRDone_rdInv {s t : State} (h : RdInv s) (hs : s.rd.seq = 15#4) (ht : execRDone s = .next t) : RdInv t := by
  obtain ⟨f, -, ht⟩ := onRead_next ht
  obtain ⟨x, -, ht⟩ := onRead_next ht
  cases ht
  exact finish_rdInv h (h.not_pending (by rw [hs]; rfl))
    (h.calValid_of_seq (by rw [hs]; decide)) (.inr (.inr ⟨_, _, _, _, _, _, rfl⟩))

/-- The sixteen values of a step register. -/
theorem seq_cases : ∀ v : BitVec 4, v = 0#4 ∨ v = 1#4 ∨ v = 2#4 ∨ v = 3#4 ∨ v = 4#4 ∨ v = 5#4 ∨ v = 6#4 ∨ v = 7#4 ∨
    v = 8#4 ∨ v = 9#4 ∨ v = 10#4 ∨ v = 11#4 ∨ v = 12#4 ∨ v = 13#4 ∨ v = 14#4 ∨ v = 15#4 := by decide

/-- The step that `SEQ` names keeps the invariant. -/
theorem exec_decodeSeq_rdInv {s t : State} (h : RdInv s) (ht : exec (decodeSeq s.rd.seq) s = .next t) : RdInv t := by
  obtain hs | hs | hs | hs | hs | hs | hs | hs | hs | hs | hs | hs | hs | hs | hs | hs := seq_cases s.rd.seq <;>
    rw [hs] at ht
  · exact execIdle_rdInv h hs ht
  · exact execIId_rdInv h hs ht
  · exact execICala_rdInv h hs ht
  · exact execICalb_rdInv h hs ht
  · exact execICalc_rdInv h hs ht
  · exact execIWhum_rdInv h hs ht
  · exact execIWmeas_rdInv h hs ht
  · exact execIWcfg_rdInv h hs ht
  · exact execIDone_rdInv h hs ht
  · exact execRData_rdInv h hs ht
  · exact execRUnpk_rdInv h hs ht
  · exact execRCmpt_rdInv h hs ht
  · exact execRCmpp_rdInv h hs ht
  · exact execRCmph_rdInv h hs ht
  · exact execRCvt_rdInv h hs ht
  · exact execRDone_rdInv h hs ht

/-! ## The collaborator -/

/-- The oldest request and the next answer are used up, and the sensor is left as `x`. -/
def answered (x : Sensor) (s : State) : State :=
  (dropOldest (popAnswer s)).withBus { (dropOldest (popAnswer s)).bus with sensor := x }

/-- What carrying out a request comes to: it waits for an answer, it passes offset 0xFF, or its answer is delivered. -/
theorem exec_instrOfReq_cases (q : BusReq) (s : State) :
    exec (instrOfReq q) s = .next s ∨
    (fitsSpace q.reg q.len = false ∧ exec (instrOfReq q) s = .refused .burstPastEnd) ∨
    ∃ a x, (s.bus.sensor.regs.wf → x.regs.wf) ∧ exec (instrOfReq q) s = deliver a (answered x s) := by
  cases hk : q.kind with
  | rd =>
    simp only [instrOfReq, hk, exec, execRd]
    cases hf : fitsSpace q.reg q.len with
    | false => exact .inr (.inl ⟨rfl, rfl⟩)
    | true =>
      cases s.env.answers with
      | nil => exact .inl rfl
      | cons a _ => exact .inr (.inr ⟨a, s.bus.sensor, id, rfl⟩)
  | wr =>
    simp only [instrOfReq, hk, exec, execWr]
    cases s.env.answers with
    | nil => exact .inl rfl
    | cons a _ =>
      by_cases ha : a.ok = true ∧ q.dev = (dropOldest (popAnswer s)).cfg.devAddr
      · exact .inr (.inr ⟨a, s.bus.sensor.write s.cfg q.reg q.wdata, Sensor.write_wf _ _ _ _, if_pos ha⟩)
      · exact .inr (.inr ⟨a, s.bus.sensor, id, if_neg ha⟩)

/-- Delivering the answer to the oldest request. -/
theorem deliver_rdInv {s t : State} {a : BusRsp} {x : Sensor} (h : RdInv s) (hx : x.regs.wf)
    (ht : deliver a (answered x s) = .next t) : RdInv t := by
  have htail : ∀ q ∈ s.bus.inFlight.tail, fitsSpace q.reg q.len = true :=
    fun q hq => h.fits q (List.mem_of_mem_tail hq)
  obtain ⟨hidle, -, rfl⟩ | ⟨hb, hf, -, rfl⟩ := deliver_cases ht
  · exact { h with
      port := fun hn => absurd (h.port_empty hidle) hn
      held := fun hb => absurd hb (Bool.eq_false_iff.1 hidle)
      fits := htail
      sensor := hx }
  · exact { h with
      port := fun _ => ⟨hb, hf⟩
      held := nofun
      fits := htail
      sensor := hx }

/-- Carrying out a request keeps the invariant. -/
theorem exec_instrOfReq_rdInv {s t : State} {q : BusReq} (h : RdInv s) (ht : exec (instrOfReq q) s = .next t) :
    RdInv t := by
  obtain he | ⟨-, he⟩ | ⟨a, x, hx, he⟩ := exec_instrOfReq_cases q s <;> rw [he] at ht
  · cases ht; exact h
  · cases ht
  · exact deliver_rdInv h (hx h.sensor) ht

/-! ## A turn of the RD side -/

/-- `s` with the words `rest` left for `CMD`. -/
def withWords (rest : List Byte) (s : State) : State := s.withEnv { s.env with cmdIn := rest }

/-- What the host's turn on `CMD` comes to: nothing, or a word taken on the ready port. -/
theorem fetchHost_cases (s : State) : fetchHost s = .nothing s ∨ s.rd.seq = 0#4 ∧ ∃ rest,
    (fetchHost s = .instr .init (withWords rest s) ∨ fetchHost s = .instr .read (withWords rest s) ∨
      ∃ op, fetchHost s = .illegalCmd op (withWords rest s)) := by
  by_cases hs : s.rd.seq = 0#4
  · cases hc : s.env.cmdIn with
    | nil => exact .inl (by simp [fetchHost, hc])
    | cons op rest =>
      refine .inr ⟨hs, rest, ?_⟩
      cases hd : decodeCmd op with
      | error e => exact .inr (.inr ⟨op, by simp [fetchHost, (cmdReady_iff s).2 hs, hc, hd, withWords]⟩)
      | ok i =>
        have hf : fetchHost s = .instr i (withWords rest s) := fetchHost_of_decodeCmd hs hc hd
        obtain rfl | rfl := decodeCmd_ok_cases hd
        · exact .inl hf
        · exact .inr (.inl hf)
  · exact .inl (if_neg ((cmdReady_iff s).not.2 hs))

/-- The host's turn on `CMD`. -/
theorem runFetched_fetchHost_rdInv {s t : State} (h : RdInv s) (ht : runFetched (fetchHost s) = .next t) : RdInv t := by
  obtain hf | ⟨hs, rest, hf⟩ := fetchHost_cases s
  · rw [hf] at ht
    cases ht
    exact h
  · have hu : RdInv (withWords rest s) := h.congr rfl rfl rfl
    obtain hf | hf | ⟨op, hf⟩ := hf <;> rw [hf] at ht
    · exact execInit_rdInv hu hs ht
    · exact execRead_rdInv hu hs ht
    · cases ht
      exact refuseRd_rdInv _ _ hu hs

/-- The collaborator's turn. -/
theorem runFetched_fetchBus_rdInv {s t : State} (h : RdInv s) (ht : runFetched (fetchBus s) = .next t) : RdInv t := by
  unfold fetchBus at ht
  split at ht
  · cases ht; exact h
  · exact exec_instrOfReq_rdInv h ht

/-- Every turn of the RD unit, its port, its bus and its response keeps the invariant. -/
theorem runFetched_rdInv {s t : State} {k : Turn} (hk : OnRdSide k) (h : RdInv s)
    (ht : runFetched (fetchTurn k s) = .next t) : RdInv t := by
  obtain rfl | rfl | rfl | rfl | ⟨f, rfl⟩ := hk
  case inl => exact exec_decodeSeq_rdInv h ht
  case inr.inl => exact runFetched_fetchHost_rdInv h ht
  case inr.inr.inl => exact runFetched_fetchBus_rdInv h ht
  case inr.inr.inr.inl =>
    obtain ⟨-, rfl⟩ := deliverUnasked_cases ht
    exact h.congr rfl rfl rfl
  case inr.inr.inr.inr =>
    obtain rfl := hostReadsRsp_next ht
    exact h

end Sys2Proof.Machine
end

-- ==== The SP side of the invariant (10_state.md R40 to R44, 20_memory.md R82) ====
section
/-! PROOFS. What a parse in progress holds, and each step of the SP unit by what it writes. -/

namespace Sys2Proof.Machine

/-! ## What the invariant says of a state -/

/-- `SpInv` is about the parameters and the SP unit. -/
theorem SpInv.congr {s t : State} (h : SpInv s) (hcfg : t.cfg = s.cfg) (hsp : t.sp = s.sp) : SpInv t := by
  obtain ⟨cfg, rd, sp, bus, env⟩ := t
  subst hcfg hsp
  exact { h with }

/-- A command that ends in an error has a response of the right form. -/
theorem prspShape_ended (op : Byte) (e : Err) : prspShape (Prsp.ended op e.code) :=
  .inr (.inl ⟨op, e.code, rfl, e.code_ne_statusOk⟩)

/-- The kept text and its terminator, place by place. -/
theorem holdsText.regAt_wbuf {cap : Nat} {p : SpUnit} {t : List Byte} (h : holdsText cap p t) {k : Nat}
    (hk : k < t.length) : regAt p.wbuf k = .val (t.getD k 0#8) := by
  obtain ⟨-, -, -, hw⟩ := h
  have hk' := congrArg (fun l => l[k]?) hw
  simp only [List.map_append, List.getElem?_take, Nat.lt_succ_of_lt hk, if_true] at hk'
  rw [List.getElem?_append_left (by simpa using hk)] at hk'
  simp [regAt, hk', hk]

/-- The kept text reads back. -/
theorem holdsText.workText {cap : Nat} {s : State} {t : List Byte} (h : holdsText cap s.sp t) :
    workText s = .ok t := by
  obtain ⟨hl, -, -, hw⟩ := h
  have ht : (s.sp.wbuf.drop 0).take t.length = t.map Reg.val := by
    have := congrArg (List.take t.length) hw
    simpa [List.take_take] using this
  show (s.sp.wlen.get .wlen >>= fun n => readCells .wbuf s.sp.wbuf 0 n) = _
  rw [hl]
  exact readCells_of_take ht

/-- The overwritten cells, place by place. -/
theorem regAt_overwrite {α : Type} {vs : List α} {buf : List (Reg α)} {j : Nat} (hj : j < vs.length) :
    regAt (overwrite vs buf) j = .val vs[j] := by
  have hj' : j < (vs.map Reg.val).length := by simpa using hj
  simp [regAt, overwrite, List.getElem?_append_left hj', hj]

/-! ## Going to the next step, and ending a command -/

/-- What step `p` of a parse finds of the text and its fields. -/
def textAt (p : Nat) (s : State) : Prop :=
  3 ≤ p → ∃ t, holdsText s.cfg.bufCap s.sp t ∧
    (4 ≤ p → ∃ n, holdsFields s.sp t n ∧ (5 ≤ p → Config.nfieldMin ≤ n))

/-- From step 5 on the text and its fields stay. -/
theorem textAt_of_five_le {s : State} {p q : Nat} (h : textAt p s) (hp : 5 ≤ p) : textAt q s := fun _ => by
  obtain ⟨t, ht, hf⟩ := h (by omega)
  obtain ⟨n, hn, hmin⟩ := hf (by omega)
  exact ⟨t, ht, fun _ => ⟨n, hn, fun _ => hmin hp⟩⟩

/-- From a step inside a parse to step `v`. -/
theorem setPseq_spInv {s : State} {v : BitVec 3} (h : SpInv s) (h0 : s.sp.pseq ≠ 0#3) (htext : textAt v.toNat s)
    (hscan : 6 ≤ v.toNat → s.sp.latq.isVal = true ∧ s.sp.lonq.isVal = true ∧ s.sp.hlat.isVal = true ∧
      s.sp.hlon.isVal = true ∧ s.sp.qual.isVal = true ∧ s.sp.sats.isVal = true)
    (hconv : 7 ≤ v.toNat → s.sp.lat.isVal = true ∧ s.sp.lon.isVal = true) : SpInv (setPseq v s) :=
  { h with
    sentence := fun _ => h.sentence (Nat.pos_of_ne_zero fun e => h0 (BitVec.eq_of_toNat_eq e))
    text := htext
    scanned := hscan
    converted := hconv
    prspBusy := fun _ => h.prspBusy h0 }

/-- A failed `PARSE`. -/
theorem raiseSp_spInv {s : State} (e : Err) (h : SpInv s) : SpInv (raiseSp e s) :=
  spInv_of_idle rfl h.capacity h.wbufLength rfl rfl (prspShape_ended _ e)

/-! ## The command -/

/-- A refused message. -/
theorem refuseSp_spInv {s : State} (op : Byte) (e : Err) (h : SpInv s) (hs : s.sp.pseq = 0#3) :
    SpInv (refuseSp op e (clearPrsp s)) :=
  spInv_of_idle hs h.capacity h.wbufLength h.fsLength h.flLength (prspShape_ended op e)

/-- The operand of a framed message is as long as its length byte says. -/
theorem framePcmd_operand_length {bytes operand rest : List Byte} {op : Byte}
    (h : framePcmd bytes = some (op, operand, rest)) : operand.length ≤ Config.sentMax := by
  unfold framePcmd at h
  split at h
  · rename_i _ len _
    simp only at h
    split at h <;> cases h
    rename_i hl
    exact hl.trans_le (Nat.le_of_lt_succ len.isLt)
  · cases h

theorem sentenceOf_length_le (operand : List Byte) : (sentenceOf operand).length ≤ operand.length :=
  (List.takeWhile_sublist _).length_le

/-- A sentence holds no 0x00 (20_memory.md R81). -/
theorem zero_notMem_sentenceOf (operand : List Byte) : 0x00#8 ∉ sentenceOf operand :=
  fun hz => absurd (List.mem_takeWhile_imp hz) (by decide)

/-- `PARSE` taken on the port latches the sentence. -/
theorem execParse_spInv {s t : State} {operand : List Byte} (h : SpInv s) (hs : s.sp.pseq = 0#3)
    (ho : operand.length ≤ Config.sentMax) (ht : execParse operand s = .next t) : SpInv t := by
  rw [execParse, if_pos ((pcmdReady_iff s).2 hs)] at ht
  cases ht
  exact { h with
    sentence := fun _ => ⟨_, rfl, (sentenceOf_length_le operand).trans ho, zero_notMem_sentenceOf operand⟩
    text := nofun
    scanned := nofun
    converted := nofun
    prspBusy := fun _ => rfl
    prspForm := .inl rfl }

/-! ## The steps -/

theorem execPPfx_spInv {s t : State} (h : SpInv s) (hs : s.sp.pseq = 1#3) (ht : execPPfx s = .next t) : SpInv t := by
  obtain ⟨w, -, ht⟩ := onRead_next ht
  cases ht
  split
  · exact setPseq_spInv h (by rw [hs]; decide) (fun hl => absurd hl (by decide)) (fun hl => absurd hl (by decide))
      fun hl => absurd hl (by decide)
  · exact raiseSp_spInv _ h

/-- `P_COPY` writes the text, its length and its terminator into the working buffer. -/
theorem holdsText_of_copy {c : Config} {w : List Byte} {p : SpUnit} (hz : 0x00#8 ∉ w)
    (hl : p.wlen = .val (keptText c w).length) (hw : p.wbuf.take (keptText c w ++ [0x00#8]).length =
      (keptText c w ++ [0x00#8]).map Reg.val) : holdsText c.bufCap p (keptText c w) :=
  ⟨hl, List.length_take_le _ _, fun hm => hz (List.mem_of_mem_take hm), by simpa using hw⟩

theorem execPCopy_spInv {s t : State} (h : SpInv s) (hs : s.sp.pseq = 2#3) (ht : execPCopy s = .next t) : SpInv t := by
  obtain ⟨w, hw, ht⟩ := onRead_next ht
  cases ht
  obtain ⟨w', hw', -, hz⟩ := h.sentence (by rw [hs]; decide)
  obtain rfl : w' = w := by rw [hw'] at hw; exact Except.ok.inj hw
  have hlen : (keptText s.cfg w' ++ [0x00#8]).length ≤ s.sp.wbuf.length := by
    have := h.capacity
    simp [keptText, h.wbufLength]
    omega
  exact setPseq_spInv (v := 3#3) (s := s.withSp { s.sp with
      wlen := .val (keptText s.cfg w').length, wbuf := overwrite (keptText s.cfg w' ++ [0x00#8]) s.sp.wbuf })
    { h with
      wbufLength := (overwrite_length _ _ hlen).trans h.wbufLength
      text := fun hl => absurd hl (by rw [withSp_sp, hs]; decide) }
    (by rw [withSp_sp, hs]; decide)
    (fun _ => ⟨_, holdsText_of_copy hz rfl (overwrite_take _ _), fun hl => absurd hl (by decide)⟩)
    (fun hl => absurd hl (by decide)) fun hl => absurd hl (by decide)

/-- `P_SPLIT` stores the first eight fields of the text. -/
theorem holdsFields_of_split {c : Config} {w : List Byte} {p : SpUnit} {fs fl : List (Reg Nat)}
    (hn : p.nf = .val (splitText c w).length) (hfs : p.fs = overwrite (((splitText c w).take 8).map Prod.fst) fs)
    (hfl : p.fl = overwrite (((splitText c w).take 8).map Prod.snd) fl) : holdsFields p w (splitText c w).length := by
  refine ⟨hn, fun j h8 hj => ⟨(splitText c w)[j].1, (splitText c w)[j].2, ?_, ?_,
    splitText_bounds (List.getElem_mem hj)⟩⟩
  · rw [hfs, regAt_overwrite (by simp; omega)]
    simp
  · rw [hfl, regAt_overwrite (by simp; omega)]
    simp

theorem execPSplit_spInv {s t : State} (h : SpInv s) (hs : s.sp.pseq = 3#3) (ht : execPSplit s = .next t) :
    SpInv t := by
  obtain ⟨w, hw, ht⟩ := onRead_next ht
  cases ht
  obtain ⟨w', hw', -⟩ := h.text (by rw [hs]; decide)
  obtain rfl : w' = w := by rw [hw'.workText] at hw; exact Except.ok.inj hw
  have hlen : ((splitText s.cfg w').take 8).length ≤ 8 := List.length_take_le _ _
  exact setPseq_spInv (v := 4#3) (s := s.withSp { s.sp with
      nf := .val (splitText s.cfg w').length
      fs := overwrite (((splitText s.cfg w').take 8).map Prod.fst) s.sp.fs
      fl := overwrite (((splitText s.cfg w').take 8).map Prod.snd) s.sp.fl })
    { h with
      fsLength := (overwrite_length _ _ (by simp [h.fsLength])).trans h.fsLength
      flLength := (overwrite_length _ _ (by simp [h.flLength])).trans h.flLength
      text := fun _ => ⟨w', hw', fun hl => absurd hl (by rw [withSp_sp, hs]; decide)⟩ }
    (by rw [withSp_sp, hs]; decide)
    (fun _ => ⟨w', hw', fun _ => ⟨_, holdsFields_of_split rfl rfl rfl, fun hl => absurd hl (by decide)⟩⟩)
    (fun hl => absurd hl (by decide)) fun hl => absurd hl (by decide)

theorem execPCnt_spInv {s t : State} (h : SpInv s) (hs : s.sp.pseq = 4#3) (ht : execPCnt s = .next t) : SpInv t := by
  obtain ⟨m, hm, ht⟩ := onRead_next ht
  cases ht
  obtain ⟨w, hw, hf⟩ := h.text (by rw [hs]; decide)
  obtain ⟨n, hn, -⟩ := hf (by rw [hs]; decide)
  obtain rfl : n = m := by rw [hn.1] at hm; exact Except.ok.inj hm
  split
  · exact raiseSp_spInv _ h
  · next hmin =>
    exact setPseq_spInv h (by rw [hs]; decide) (fun _ => ⟨w, hw, fun _ => ⟨n, hn, fun _ => Nat.le_of_not_lt hmin⟩⟩)
      (fun hl => absurd hl (by decide)) fun hl => absurd hl (by decide)

theorem execPScan_spInv {s t : State} (h : SpInv s) (hs : s.sp.pseq = 5#3) (ht : execPScan s = .next t) : SpInv t := by
  obtain ⟨⟨f2, f3, f4, f5, f6, f7⟩, -, ht⟩ := onRead_next ht
  cases ht
  exact setPseq_spInv (v := 6#3) (s := s.withSp { s.sp with
      latq := .val _, hlat := .val _, lonq := .val _, hlon := .val _, qual := .val _, sats := .val _ })
    { h with scanned := fun _ => ⟨rfl, rfl, rfl, rfl, rfl, rfl⟩ }
    (by rw [withSp_sp, hs]; decide) (textAt_of_five_le h.text (by rw [hs]; decide))
    (fun _ => ⟨rfl, rfl, rfl, rfl, rfl, rfl⟩) fun hl => absurd hl (by decide)

theorem execPConv_spInv {s t : State} (h : SpInv s) (hs : s.sp.pseq = 6#3) (ht : execPConv s = .next t) : SpInv t := by
  obtain ⟨x, -, ht⟩ := onRead_next ht
  cases ht
  exact setPseq_spInv (v := 7#3) (s := s.withSp { s.sp with lat := .val _, lon := .val _ })
    { h with converted := fun _ => ⟨rfl, rfl⟩ }
    (by rw [withSp_sp, hs]; decide) (textAt_of_five_le h.text (by rw [hs]; decide))
    (fun _ => h.scanned (by rw [hs]; decide)) fun _ => ⟨rfl, rfl⟩

/-- The end of a parse: a response with payload. -/
theorem execPDone_spInv {s t : State} (h : SpInv s) (ht : execPDone s = .next t) : SpInv t := by
  obtain ⟨x, -, ht⟩ := onRead_next ht
  cases ht
  exact spInv_of_idle rfl h.capacity h.wbufLength h.fsLength h.flLength (.inr (.inr ⟨_, _, _, _, rfl⟩))

/-- The eight values of a step register. -/
theorem pseq_cases : ∀ v : BitVec 3,
    v = 0#3 ∨ v = 1#3 ∨ v = 2#3 ∨ v = 3#3 ∨ v = 4#3 ∨ v = 5#3 ∨ v = 6#3 ∨ v = 7#3 := by decide

/-- The step that `PSEQ` names keeps the invariant. -/
theorem exec_decodePseq_spInv {s t : State} (h : SpInv s) (ht : exec (decodePseq s.sp.pseq) s = .next t) :
    SpInv t := by
  obtain hs | hs | hs | hs | hs | hs | hs | hs := pseq_cases s.sp.pseq <;> rw [hs] at ht
  · cases ht; exact h
  · exact execPPfx_spInv h hs ht
  · exact execPCopy_spInv h hs ht
  · exact execPSplit_spInv h hs ht
  · exact execPCnt_spInv h hs ht
  · exact execPScan_spInv h hs ht
  · exact execPConv_spInv h hs ht
  · exact execPDone_spInv h ht

/-! ## A turn of the SP side -/

/-- `s` with the bytes `rest` left for `PCMD`. -/
def withMessages (rest : List Byte) (s : State) : State := s.withEnv { s.env with pcmdIn := rest }

/-- The one opcode that `PCMD` accepts (30_encoding.md R98). -/
theorem decodePcmd_ok {op : Byte} {operand : List Byte} {i : Instr} (h : decodePcmd op operand = .ok i) :
    i = .parse operand := by
  unfold decodePcmd at h
  split at h <;> cases h
  rfl

/-- What the host's turn on `PCMD` comes to: nothing, or a whole message taken on the ready port. -/
theorem fetchHostSp_cases (s : State) : fetchHostSp s = .nothing s ∨ s.sp.pseq = 0#3 ∧ ∃ rest,
    ((∃ operand : List Byte, operand.length ≤ Config.sentMax ∧
        fetchHostSp s = .instr (.parse operand) (withMessages rest s)) ∨
      ∃ op, fetchHostSp s = .illegalPcmd op (withMessages rest s)) := by
  by_cases hs : s.sp.pseq = 0#3
  · cases hc : framePcmd s.env.pcmdIn with
    | none => exact .inl (by simp [fetchHostSp, hc])
    | some frame =>
      obtain ⟨op, operand, rest⟩ := frame
      refine .inr ⟨hs, rest, ?_⟩
      cases hd : decodePcmd op operand with
      | error e => exact .inr ⟨op, by simp [fetchHostSp, (pcmdReady_iff s).2 hs, hc, hd, withMessages]⟩
      | ok i =>
        obtain rfl := decodePcmd_ok hd
        exact .inl ⟨operand, framePcmd_operand_length hc, fetchHostSp_of_decodePcmd hs hc hd⟩
  · exact .inl (if_neg ((pcmdReady_iff s).not.2 hs))

/-- The host's turn on `PCMD`. -/
theorem runFetched_fetchHostSp_spInv {s t : State} (h : SpInv s) (ht : runFetched (fetchHostSp s) = .next t) :
    SpInv t := by
  obtain hf | ⟨hs, rest, hf⟩ := fetchHostSp_cases s
  · rw [hf] at ht
    cases ht
    exact h
  · have hu : SpInv (withMessages rest s) := h.congr rfl rfl
    obtain ⟨operand, ho, hf⟩ | ⟨op, hf⟩ := hf <;> rw [hf] at ht
    · exact execParse_spInv hu hs ho ht
    · cases ht
      exact refuseSp_spInv _ _ hu hs

/-- Every turn of the SP unit, its port and its response keeps the invariant. -/
theorem runFetched_spInv {s t : State} {k : Turn} (hk : OnSpSide k) (h : SpInv s)
    (ht : runFetched (fetchTurn k s) = .next t) : SpInv t := by
  obtain rfl | rfl | ⟨f, rfl⟩ := hk
  case inl => exact exec_decodePseq_spInv h ht
  case inr.inl => exact runFetched_fetchHostSp_spInv h ht
  case inr.inr =>
    obtain rfl := hostReadsPrsp_next ht
    exact h

end Sys2Proof.Machine
end

-- ==== Every step keeps the invariant, and goes on in it (10_state.md R22, R24; 70_reset_and_hazards.md R301) ====
section
/-! PROOFS. The two sides of the invariant put together: a turn moves one side and leaves the parameters and the other
side. Then what each turn needs to go on, from the invariant. -/

namespace Sys2Proof.Machine
open Sys2Proof.Expect

/-! ## No step changes the parameters -/

/-- An outcome that goes on does so with the parameters of `s`. -/
def KeepsCfg (s : State) (o : StepOut) : Prop := ∀ t, o = .next t → t.cfg = s.cfg

theorem keepsCfg_next {s t : State} (h : t.cfg = s.cfg) : KeepsCfg s (.next t) := fun _ e => by cases e; exact h

theorem keepsCfg_refused {s : State} {e : Refusal} : KeepsCfg s (.refused e) := fun _ e => by cases e

theorem keepsCfg_onRead {α : Type} {s : State} {x : Except Fault α} {k : α → StepOut} (hk : ∀ a, KeepsCfg s (k a)) :
    KeepsCfg s (onRead x k) := fun t ht => by
  obtain ⟨a, -, ha⟩ := onRead_next ht
  exact hk a t ha

theorem keepsCfg_readTransfer {s : State} {reg : Byte} {n : Nat} {op : Byte} {e : Err}
    {done : List Byte → State → State} (hd : ∀ data u, (done data u).cfg = u.cfg) :
    KeepsCfg s (readTransfer reg n op e done s) := fun t ht => by
  obtain ⟨-, -, rfl⟩ | ⟨-, -, rfl⟩ | ⟨_, -, -, -, rfl⟩ | ⟨_, data, -, -, -, rfl⟩ := readTransfer_cases ht
  · rfl
  · rfl
  · exact raiseRd_cfg _ _ _
  · exact hd data _

theorem keepsCfg_writeTransfer {s : State} {reg v : Byte} {next : BitVec 4} :
    KeepsCfg s (writeTransfer reg v next s) := fun t ht => by
  obtain ⟨-, -, rfl⟩ | ⟨-, -, rfl⟩ | ⟨_, -, -, -, rfl⟩ | ⟨_, -, -, -, rfl⟩ := writeTransfer_cases ht
  · rfl
  · rfl
  · exact raiseRd_cfg _ _ _
  · rfl

theorem checkIdentity_cfg (b : List Byte) (s : State) : (checkIdentity b s).cfg = s.cfg := by
  unfold checkIdentity
  split
  · rfl
  · exact raiseRd_cfg _ _ _

theorem keepsCfg_deliver {s u : State} (a : BusRsp) (hu : u.cfg = s.cfg) : KeepsCfg s (deliver a u) := fun t ht => by
  obtain ⟨-, -, rfl⟩ | ⟨-, -, -, rfl⟩ := deliver_cases ht <;> exact hu

theorem keepsCfg_execInit (s : State) : KeepsCfg s (execInit s) := by
  unfold execInit
  split
  · split
    · exact keepsCfg_next rfl
    · exact keepsCfg_next rfl
    · exact keepsCfg_refused
    · exact keepsCfg_refused
  · exact keepsCfg_refused

theorem keepsCfg_execRead (s : State) : KeepsCfg s (execRead s) := by
  unfold execRead
  split
  · split <;> exact keepsCfg_next rfl
  · exact keepsCfg_refused

theorem keepsCfg_execParse (operand : List Byte) (s : State) : KeepsCfg s (execParse operand s) := by
  unfold execParse
  split
  · exact keepsCfg_next rfl
  · exact keepsCfg_refused

theorem keepsCfg_instrOfReq (q : BusReq) (s : State) : KeepsCfg s (exec (instrOfReq q) s) := by
  obtain he | ⟨-, he⟩ | ⟨a, x, -, he⟩ := exec_instrOfReq_cases q s <;> rw [he]
  · exact keepsCfg_next rfl
  · exact keepsCfg_refused
  · exact keepsCfg_deliver a rfl

/-- No instruction changes the parameters. -/
theorem keepsCfg_exec (s : State) : ∀ i : Instr, KeepsCfg s (exec i s)
  | .init => keepsCfg_execInit s
  | .read => keepsCfg_execRead s
  | .parse operand => keepsCfg_execParse operand s
  | .idle | .iDone | .pIdle => keepsCfg_next rfl
  | .iId => keepsCfg_readTransfer checkIdentity_cfg
  | .iCala => keepsCfg_readTransfer (done := fun a t => setSeq 3#4 (storeBlockA (decA t.cfg a) t)) fun _ _ => rfl
  | .iCalb => keepsCfg_readTransfer (done := fun b t => setSeq 4#4 (storeBlockB (decB t.cfg b) t)) fun _ _ => rfl
  | .iCalc => keepsCfg_readTransfer (done := fun c t => setSeq 5#4 (storeBlockC (decC t.cfg c) t)) fun _ _ => rfl
  | .rData => keepsCfg_readTransfer (done := fun _ t => setSeq 10#4 t) fun _ _ => rfl
  | .iWhum | .iWmeas | .iWcfg => keepsCfg_writeTransfer
  | .rUnpk | .rCmpt | .rCmpp | .rCmph | .rCvt => keepsCfg_onRead fun _ => keepsCfg_next rfl
  | .rDone => keepsCfg_onRead fun _ => keepsCfg_onRead fun _ => keepsCfg_next rfl
  | .pPfx | .pCnt => keepsCfg_onRead fun _ => keepsCfg_next (by split <;> rfl)
  | .pCopy | .pSplit | .pScan | .pConv | .pDone => keepsCfg_onRead fun _ => keepsCfg_next rfl
  | .rd dev reg len wdata timeout => keepsCfg_instrOfReq ⟨.rd, dev, reg, len, wdata, timeout⟩ s
  | .wr dev reg len wdata timeout => keepsCfg_instrOfReq ⟨.wr, dev, reg, len, wdata, timeout⟩ s

theorem keepsCfg_fetchHost (s : State) : KeepsCfg s (runFetched (fetchHost s)) := by
  obtain hf | ⟨-, rest, hf | hf | ⟨op, hf⟩⟩ := fetchHost_cases s <;> rw [hf]
  · exact keepsCfg_next rfl
  · exact keepsCfg_exec (withWords rest s) .init
  · exact keepsCfg_exec (withWords rest s) .read
  · exact keepsCfg_next rfl

theorem keepsCfg_fetchHostSp (s : State) : KeepsCfg s (runFetched (fetchHostSp s)) := by
  obtain hf | ⟨-, rest, ⟨operand, -, hf⟩ | ⟨op, hf⟩⟩ := fetchHostSp_cases s <;> rw [hf]
  · exact keepsCfg_next rfl
  · exact keepsCfg_exec (withMessages rest s) (.parse operand)
  · exact keepsCfg_next rfl

theorem keepsCfg_fetchBus (s : State) : KeepsCfg s (runFetched (fetchBus s)) := by
  unfold fetchBus
  split
  · exact keepsCfg_next rfl
  · exact keepsCfg_exec s _

/-- No turn changes the parameters. -/
theorem keepsCfg_runFetched (s : State) : ∀ k : Turn, KeepsCfg s (runFetched (fetchTurn k s))
  | .host => keepsCfg_fetchHost s
  | .hostSp => keepsCfg_fetchHostSp s
  | .readRsp _ => fun _ ht => by rw [hostReadsRsp_next ht]
  | .readPrsp _ => fun _ ht => by rw [hostReadsPrsp_next ht]
  | .rd | .sp => keepsCfg_exec s _
  | .bus => keepsCfg_fetchBus s
  | .busUnasked => fun _ ht => by rw [(deliverUnasked_cases ht).2]; rfl
  | .rst => keepsCfg_next rfl

/-- No step changes the parameters. -/
theorem step_cfg {s t : State} (h : step s = .next t) : t.cfg = s.cfg := by
  rw [step_of_nextTurn rfl] at h
  exact keepsCfg_runFetched (popTurn s) _ t h

/-! ## StepKeepsInv -/

/-- A turn is the RD side's, the SP side's, or reset. -/
theorem turn_side (k : Turn) : OnRdSide k ∨ OnSpSide k ∨ k = .rst := by
  cases k <;> simp [OnRdSide, OnSpSide]

/-- Settles O51: the side whose turn it is by its own steps, the other side by the frame. -/
theorem stepKeepsInv : Obligations.StepKeepsInv := by
  intro s t h ht
  have hcfg := step_cfg ht
  have hrun := ht
  rw [step_of_nextTurn rfl] at hrun
  have hpop : Inv (popTurn s) := ⟨h.rd.congr rfl rfl rfl, h.sp.congr rfl rfl⟩
  obtain hk | hk | hk := turn_side (nextTurn s)
  · exact ⟨runFetched_rdInv hk hpop.rd hrun, h.sp.congr hcfg (step_frame_of_onRdSide hk ht).1⟩
  · obtain ⟨hrd, hbus, -, -⟩ := step_frame_of_onSpSide hk ht
    exact ⟨h.rd.congr hcfg hrd hbus, runFetched_spInv hk hpop.sp hrun⟩
  · rw [hk] at hrun
    cases hrun
    exact assertReset_inv hpop

/-! ## A transfer goes on -/

/-- A single byte never passes the end of the register space. -/
theorem fitsSpace_one (reg : Byte) : fitsSpace reg 1#8 = true := by
  have := reg.isLt
  simp [fitsSpace]
  omega

theorem transfer_goes_on {req : BusReq} {complete : BusRsp → State → State} {s : State}
    (hf : fitsSpace req.reg req.len = true) : ∃ t, transfer req complete s = .next t := by
  unfold transfer
  split
  · split <;> exact ⟨_, rfl⟩
  · exact ⟨_, rfl⟩

theorem readTransfer_goes_on {reg : Byte} {n : Nat} {op : Byte} {e : Err}
    {done : List Byte → State → State} {s : State} (hf : fitsSpace reg (BitVec.ofNat 8 n) = true) :
    ∃ t, readTransfer reg n op e done s = .next t :=
  transfer_goes_on hf

theorem writeTransfer_goes_on {reg v : Byte} {next : BitVec 4} {s : State} :
    ∃ t, writeTransfer reg v next s = .next t :=
  transfer_goes_on (fitsSpace_one reg)

/-- The bursts of an admitted parameter set (20_memory.md R65). -/
theorem fitsSpace_of_admitted {c : Config} (h : c.admitted = true) :
    fitsSpace c.calaReg 24#8 = true ∧ fitsSpace c.calcReg 7#8 = true ∧ fitsSpace c.dataReg 8#8 = true := by
  simp only [Config.admitted, Bool.and_eq_true, decide_eq_true_eq] at h
  obtain ⟨⟨⟨⟨hA, hC⟩, hD⟩, -⟩, -⟩ := h
  exact ⟨decide_eq_true hA, decide_eq_true hC, decide_eq_true hD⟩

/-! ## No step lacks an operand -/

/-- A step whose registers of `operandsOf` all hold values. -/
theorem not_lacks_of_operands {s : State} {i : Instr} (hi : i ≠ .rUnpk ∧ i ≠ .pSplit ∧ i ≠ .pScan)
    (h : ∀ p ∈ operandsOf s i, p.2 = true) (n : RegName) : ¬ Lacks s i n := fun hn =>
  absurd (h _ ((lacks_iff_of_operands hi n).2 hn)) Bool.false_ne_true

theorem RdInv.rUnpk_goes_on {s : State} (h : RdInv s) (hs : s.rd.seq = 10#4) : ∃ t, exec .rUnpk s = .next t := by
  refine exec_of_not_lacks rfl fun n hn => ?_
  obtain ⟨-, k, hk, hu⟩ := (lacks_rUnpk_iff s n).1 hn
  have hl : k < s.rd.xbuf.length := by rw [h.xbufLength]; omega
  have hv := h.burst (by rw [hs]; rfl) s.rd.xbuf[k] (List.mem_take_iff_getElem.2 ⟨k, by omega, rfl⟩)
  simp [regAt, hl] at hu
  simp [hu, Reg.isVal] at hv

theorem RdInv.rCmpt_goes_on {s : State} (h : RdInv s) (hs : s.rd.seq = 11#4) : ∃ t, exec .rCmpt s = .next t := by
  have hA := h.calA (by rw [hs]; decide)
  simp only [calHasA, Bool.and_eq_true] at hA
  obtain ⟨-, hT, -⟩ := h.raw (by rw [hs]; decide)
  exact exec_of_not_lacks rfl (not_lacks_of_operands (by decide) (by simp [operandsOf, hA, hT]))

theorem RdInv.rCmpp_goes_on {s : State} (h : RdInv s) (hs : s.rd.seq = 12#4) : ∃ t, exec .rCmpp s = .next t := by
  have hA := h.calA (by rw [hs]; decide)
  simp only [calHasA, Bool.and_eq_true] at hA
  obtain ⟨hP, -, -⟩ := h.raw (by rw [hs]; decide)
  obtain ⟨hfine, -⟩ := h.temp (by rw [hs]; decide)
  exact exec_of_not_lacks rfl (not_lacks_of_operands (by decide) (by simp [operandsOf, hA, hP, hfine]))

theorem RdInv.rCmph_goes_on {s : State} (h : RdInv s) (hs : s.rd.seq = 13#4) : ∃ t, exec .rCmph s = .next t := by
  have hB := h.calB (by rw [hs]; decide)
  have hC := h.calC (by rw [hs]; decide)
  simp only [calHasC, Bool.and_eq_true] at hC
  obtain ⟨-, -, hH⟩ := h.raw (by rw [hs]; decide)
  obtain ⟨hfine, -⟩ := h.temp (by rw [hs]; decide)
  exact exec_of_not_lacks rfl (not_lacks_of_operands (by decide) (by simp [operandsOf, hB, hC, hH, hfine]))

/-- The integer results hold values from step 14 on. -/
theorem RdInv.integerStage_isVal {s : State} (h : RdInv s) (hs : 14 ≤ s.rd.seq.toNat) :
    s.rd.tint.isVal = true ∧ s.rd.pint.isVal = true ∧ s.rd.hint.isVal = true :=
  ⟨(h.temp (by omega)).2, h.pres (by omega), h.hum hs⟩

theorem RdInv.rCvt_goes_on {s : State} (h : RdInv s) (hs : s.rd.seq = 14#4) : ∃ t, exec .rCvt s = .next t :=
  exec_of_not_lacks rfl (not_lacks_of_operands (by decide)
    (by simp [operandsOf, h.integerStage_isVal (by rw [hs]; decide)]))

theorem RdInv.rDone_goes_on {s : State} (h : RdInv s) (hs : s.rd.seq = 15#4) : ∃ t, exec .rDone s = .next t :=
  exec_of_not_lacks rfl (not_lacks_of_operands (by decide)
    (by simp [operandsOf, h.integerStage_isVal (by rw [hs]; decide), h.float (by rw [hs]; decide)]))

/-- The step that `SEQ` names goes on (10_state.md R22, R28). -/
theorem RdInv.step_goes_on {s : State} (h : RdInv s) (hc : s.cfg.admitted = true) :
    ∃ t, exec (decodeSeq s.rd.seq) s = .next t := by
  obtain ⟨hA, hC, hD⟩ := fitsSpace_of_admitted hc
  obtain hs | hs | hs | hs | hs | hs | hs | hs | hs | hs | hs | hs | hs | hs | hs | hs := seq_cases s.rd.seq <;> rw [hs]
  · exact ⟨_, rfl⟩
  · exact readTransfer_goes_on (fitsSpace_one _)
  · show ∃ t, execICala s = .next t
    exact readTransfer_goes_on hA
  · show ∃ t, execICalb s = .next t
    exact readTransfer_goes_on (fitsSpace_one _)
  · show ∃ t, execICalc s = .next t
    exact readTransfer_goes_on hC
  · exact writeTransfer_goes_on
  · exact writeTransfer_goes_on
  · exact writeTransfer_goes_on
  · exact ⟨_, rfl⟩
  · exact readTransfer_goes_on hD
  · exact h.rUnpk_goes_on hs
  · exact h.rCmpt_goes_on hs
  · exact h.rCmpp_goes_on hs
  · exact h.rCmph_goes_on hs
  · exact h.rCvt_goes_on hs
  · exact h.rDone_goes_on hs

/-- The latched sentence holds a value. -/
theorem SpInv.sent_isVal {s : State} (h : SpInv s) (hs : 1 ≤ s.sp.pseq.toNat) : s.sp.sent.isVal = true := by
  obtain ⟨w, hw, -⟩ := h.sentence hs
  rw [hw]
  rfl

theorem SpInv.pPfx_goes_on {s : State} (h : SpInv s) (hs : s.sp.pseq = 1#3) : ∃ t, exec .pPfx s = .next t :=
  exec_of_not_lacks rfl (not_lacks_of_operands (by decide) (by simp [operandsOf, h.sent_isVal (by rw [hs]; decide)]))

theorem SpInv.pCopy_goes_on {s : State} (h : SpInv s) (hs : s.sp.pseq = 2#3) : ∃ t, exec .pCopy s = .next t :=
  exec_of_not_lacks rfl (not_lacks_of_operands (by decide) (by simp [operandsOf, h.sent_isVal (by rw [hs]; decide)]))

/-- No byte of the kept text is without a value (20_memory.md R82). -/
theorem holdsText.regAt_wbuf_ne {cap : Nat} {p : SpUnit} {t : List Byte} (h : holdsText cap p t) {k : Nat}
    (hk : k < t.length) : regAt p.wbuf k ≠ .unspec := by
  rw [h.regAt_wbuf hk]
  exact nofun

theorem SpInv.pSplit_goes_on {s : State} (h : SpInv s) (hs : s.sp.pseq = 3#3) : ∃ t, exec .pSplit s = .next t := by
  obtain ⟨w, hw, -⟩ := h.text (by rw [hs]; decide)
  refine exec_of_not_lacks rfl fun n hn => ?_
  obtain ⟨-, hu⟩ | ⟨-, len, k, hl, hk, hu⟩ := (lacks_pSplit_iff s n).1 hn <;> have hlen := hw.1
  · rw [hu] at hlen
    cases hlen
  · obtain rfl : len = w.length := Reg.val.inj (hl.symm.trans hlen)
    exact hw.regAt_wbuf_ne hk hu

theorem SpInv.pCnt_goes_on {s : State} (h : SpInv s) (hs : s.sp.pseq = 4#3) : ∃ t, exec .pCnt s = .next t := by
  obtain ⟨w, -, hf⟩ := h.text (by rw [hs]; decide)
  obtain ⟨n, ⟨hn, -⟩, -⟩ := hf (by rw [hs]; decide)
  exact exec_of_not_lacks rfl (not_lacks_of_operands (by decide) (by simp [operandsOf, hn, Reg.isVal]))

/-- A stored field that lies inside the kept text lacks nothing. -/
theorem not_fieldLacks {s : State} {w : List Byte} {n j : Nat} (hw : holdsText s.cfg.bufCap s.sp w)
    (hf : holdsFields s.sp w n) (h8 : j < 8) (hj : j < n) (m : RegName) : ¬ FieldLacks s j m := by
  obtain ⟨a, b, ha, hb, hle⟩ := hf.2 j h8 hj
  rintro (⟨-, hu⟩ | ⟨-, hu⟩ | ⟨-, a', len, k, ha', hlen, hk, hu⟩)
  · rw [ha] at hu
    cases hu
  · rw [hb] at hu
    cases hu
  · obtain rfl : a' = a := Reg.val.inj (ha'.symm.trans ha)
    obtain rfl : len = b := Reg.val.inj (hlen.symm.trans hb)
    exact hw.regAt_wbuf_ne (by omega) hu

theorem SpInv.pScan_goes_on {s : State} (h : SpInv s) (hs : s.sp.pseq = 5#3) : ∃ t, exec .pScan s = .next t := by
  obtain ⟨w, hw, hf⟩ := h.text (by rw [hs]; decide)
  obtain ⟨n, hn, hmin⟩ := hf (by rw [hs]; decide)
  have h8 : 8 ≤ n := hmin (by rw [hs]; decide)
  refine exec_of_not_lacks rfl fun m hm => ?_
  obtain ⟨j, -, h7, hj⟩ := (lacks_pScan_iff s m).1 hm
  exact not_fieldLacks hw hn (by omega) (by omega) m hj

theorem SpInv.pConv_goes_on {s : State} (h : SpInv s) (hs : s.sp.pseq = 6#3) : ∃ t, exec .pConv s = .next t :=
  exec_of_not_lacks rfl (not_lacks_of_operands (by decide) (by simp [operandsOf, h.scanned (by rw [hs]; decide)]))

theorem SpInv.pDone_goes_on {s : State} (h : SpInv s) (hs : s.sp.pseq = 7#3) : ∃ t, exec .pDone s = .next t :=
  exec_of_not_lacks rfl (not_lacks_of_operands (by decide)
    (by simp [operandsOf, h.scanned (by rw [hs]; decide), h.converted (by rw [hs]; decide)]))

/-- The step that `PSEQ` names goes on. -/
theorem SpInv.step_goes_on {s : State} (h : SpInv s) : ∃ t, exec (decodePseq s.sp.pseq) s = .next t := by
  obtain hs | hs | hs | hs | hs | hs | hs | hs := pseq_cases s.sp.pseq <;> rw [hs]
  · exact ⟨_, rfl⟩
  · exact h.pPfx_goes_on hs
  · exact h.pCopy_goes_on hs
  · exact h.pSplit_goes_on hs
  · exact h.pCnt_goes_on hs
  · exact h.pScan_goes_on hs
  · exact h.pConv_goes_on hs
  · exact h.pDone_goes_on hs

/-! ## The ports and the collaborator go on -/

/-- `INIT` meets neither of the two driver states it has no case for (log 13). -/
theorem RdInv.init_goes_on {s : State} (h : RdInv s) (hs : s.rd.seq = 0#4) : ∃ t, exec .init s = .next t := by
  show ∃ t, execInit s = .next t
  obtain hd | ⟨hd, -⟩ := h.dstate_of_idle hs <;> simp [execInit, (cmdReady_iff s).2 hs, hd]

theorem read_goes_on {s : State} (hs : s.rd.seq = 0#4) : ∃ t, exec .read s = .next t := by
  show ∃ t, execRead s = .next t
  cases hd : s.rd.dstate <;> simp [execRead, (cmdReady_iff s).2 hs, hd]

theorem RdInv.fetchHost_goes_on {s : State} (h : RdInv s) : ∃ t, runFetched (fetchHost s) = .next t := by
  obtain hf | ⟨hs, rest, hf | hf | ⟨op, hf⟩⟩ := fetchHost_cases s <;> rw [hf]
  · exact ⟨_, rfl⟩
  · exact RdInv.init_goes_on (s := withWords rest s) (h.congr rfl rfl rfl) hs
  · exact read_goes_on (s := withWords rest s) hs
  · exact ⟨_, rfl⟩

theorem fetchHostSp_goes_on (s : State) : ∃ t, runFetched (fetchHostSp s) = .next t := by
  obtain hf | ⟨hs, rest, ⟨operand, -, hf⟩ | ⟨op, hf⟩⟩ := fetchHostSp_cases s <;> rw [hf]
  · exact ⟨_, rfl⟩
  · exact ⟨_, if_pos ((pcmdReady_iff s).2 hs)⟩
  · exact ⟨_, rfl⟩

/-- A response is taken where it is the one asked for, or the unit is idle. -/
theorem deliver_goes_on {a : BusRsp} {s : State} (hp : s.rd.buspend = true → s.bus.inFlight = [] ∧ s.bus.busrsp = none)
    (hi : s.rd.buspend = false → s.rd.seq = 0#4) : ∃ t, deliver a s = .next t := by
  cases hb : s.rd.buspend with
  | true =>
    obtain ⟨hf, hn⟩ := hp hb
    exact ⟨_, by simp [deliver, hb, hf, hn]; rfl⟩
  | false => exact ⟨s, by simp [deliver, busy, hb, hi hb]⟩

/-- The answer to the oldest request is delivered, if no request from before a reset meets a running command
(R301). -/
theorem RdInv.answered_goes_on {s : State} {a : BusRsp} {x : Sensor} (h : RdInv s) (hq : s.bus.inFlight ≠ [])
    (hlate : s.rd.seq ≠ 0#4 → s.bus.inFlight.length ≤ if s.rd.buspend then 1 else 0) :
    ∃ t, deliver a (answered x s) = .next t := by
  refine deliver_goes_on (fun hb => ?_) fun hidle => ?_
  · replace hb : s.rd.buspend = true := hb
    have hl := hlate fun hs => by simp [h.not_pending_of_idle hs] at hb
    rw [if_pos hb] at hl
    refine ⟨List.length_eq_zero_iff.1 ?_, ?_⟩
    · show s.bus.inFlight.tail.length = 0
      rw [List.length_tail]
      omega
    · by_contra hn
      exact hq (h.port hn).2
  · replace hidle : s.rd.buspend = false := hidle
    by_contra hrun
    have hl := hlate hrun
    rw [if_neg (Bool.eq_false_iff.1 hidle)] at hl
    exact hq (List.length_eq_zero_iff.1 (Nat.le_zero.1 hl))

theorem RdInv.fetchBus_goes_on {s : State} (h : RdInv s)
    (hlate : s.rd.seq ≠ 0#4 → s.bus.inFlight.length ≤ if s.rd.buspend then 1 else 0) :
    ∃ t, runFetched (fetchBus s) = .next t := by
  cases hq : s.bus.inFlight with
  | nil => exact ⟨s, by simp [fetchBus, hq, runFetched]⟩
  | cons q more =>
    have hrun : runFetched (fetchBus s) = exec (instrOfReq q) s := by simp [fetchBus, hq, runFetched]
    have hfits : fitsSpace q.reg q.len = true := h.fits q (by simp [hq])
    obtain he | ⟨hf, -⟩ | ⟨a, x, -, he⟩ := exec_instrOfReq_cases q s
    · exact ⟨s, hrun.trans he⟩
    · rw [hfits] at hf
      cases hf
    · rw [hrun, he]
      exact h.answered_goes_on (by simp [hq]) hlate

/-! ## StepGoesOn -/

/-- Settles O52: turn by turn. -/
theorem stepGoesOn : Obligations.StepGoesOn := by
  intro s h hc hread hstray hlate
  have hrd : RdInv (popTurn s) := h.rd.congr rfl rfl rfl
  have hsp : SpInv (popTurn s) := h.sp.congr rfl rfl
  rw [step_of_nextTurn rfl]
  cases hk : nextTurn s with
  | host => exact hrd.fetchHost_goes_on
  | hostSp => exact fetchHostSp_goes_on _
  | readRsp f => rw [hk] at hread; cases hread
  | readPrsp f => rw [hk] at hread; cases hread
  | rd => exact hrd.step_goes_on hc
  | sp => exact hsp.step_goes_on
  | bus => exact hrd.fetchBus_goes_on hlate
  | busUnasked => exact ⟨_, if_neg (by simp [hstray hk])⟩
  | rst => exact ⟨_, rfl⟩

end Sys2Proof.Machine
end

-- ==== The collaborator's answers, the sensor's registers and the latched sentence (20_memory.md R60 to R82) ====
section
/-! PROOFS. What delivering an answer comes to, and what a register write does to the sensor, each said once; a request
is then its answer delivered. -/

namespace Sys2Proof.Machine
open Sys2Proof.Expect

/-! ## The sentence of an operand -/

/-- The text up to the first 0x00 is found by the scan for it. -/
theorem sentenceOf_eq_of_isSentenceOf {text operand : List Byte} (h : IsSentenceOf text operand) :
    sentenceOf operand = text := by
  obtain ⟨hzero, hoperand⟩ := h
  have hkept : ∀ b ∈ text, (b != 0#8) = true := fun b hb => bne_iff_ne.2 fun hb0 => hzero (hb0 ▸ hb)
  obtain rfl | ⟨more, rfl⟩ := hoperand
  · exact List.takeWhile_eq_self_iff.2 hkept
  · rw [sentenceOf, List.takeWhile_append_of_pos hkept, List.takeWhile_cons_of_neg (by simp), List.append_nil]

/-- Settles O7: the sentence latched is the text of the operand. -/
theorem parseTaken : Obligations.ParseTaken := by
  intro s operand text hs htext
  rw [← sentenceOf_eq_of_isSentenceOf htext]
  exact if_pos ((pcmdReady_iff s).2 hs)

/-! ## Writing the sensor -/

/-- A write leaves its byte in the register. -/
theorem Sensor.read_write_self (c : Config) (x : Sensor) (reg v : Byte) :
    Memory.read (x.write c reg v).regs reg.toNat = some v := by
  simp [Sensor.write, Memory.read_write]

/-- A write keeps every other offset. -/
theorem Sensor.read_write_of_ne (c : Config) (x : Sensor) (reg v : Byte) {b : Nat} (h : b ≠ reg.toNat) :
    Memory.read (x.write c reg v).regs b = Memory.read x.regs b := by
  simp [Sensor.write, Memory.read_write, h.symm]

/-- No other register than the measurement-control register puts a humidity setting into effect. -/
theorem Sensor.humInEffect_write_of_ne {c : Config} (x : Sensor) {reg : Byte} (v : Byte) (h : reg ≠ c.ctrlMeasReg) :
    (x.write c reg v).humInEffect = x.humInEffect :=
  if_neg h

/-- The measurement-control register puts the humidity value written before into effect, if there is one. -/
theorem Sensor.humInEffect_write_ctrlMeas {c : Config} (x : Sensor) (v : Byte) (h : c.ctrlHumReg ≠ c.ctrlMeasReg) :
    (x.write c c.ctrlMeasReg v).humInEffect = (Memory.read x.regs c.ctrlHumReg.toNat).or x.humInEffect := by
  have hread : Memory.read (x.regs.write c.ctrlMeasReg.toNat v) c.ctrlHumReg.toNat =
      Memory.read x.regs c.ctrlHumReg.toNat :=
    Sensor.read_write_of_ne c x c.ctrlMeasReg v fun hn => h (BitVec.eq_of_toNat_eq hn)
  simp only [Sensor.write, if_true, hread]
  cases Memory.read x.regs c.ctrlHumReg.toNat <;> rfl

/-- Settles O33: the value waits in its register for the measurement-control write. -/
theorem humidityLatch : Obligations.HumidityLatch := by
  intro c x h m hne
  refine ⟨?_, Sensor.humInEffect_write_of_ne _ h hne⟩
  rw [Sensor.humInEffect_write_ctrlMeas _ m hne, Sensor.read_write_self, Option.some_or]

/-! ## Delivering an answer -/

/-- Delivery in every case: with nothing outstanding the idle unit ignores the answer, and with a request outstanding
only the one answer to it is admitted. -/
theorem deliver_eq (r : BusRsp) (s : State) :
    deliver r s =
      if s.rd.buspend = false then (if s.rd.seq = 0#4 then .next s else .refused .lateAnswer)
      else if s.bus.inFlight ≠ [] then .refused .lateAnswer
      else if s.bus.busrsp ≠ none then .refused .answeredTwice
      else .next (s.withBus { s.bus with busrsp := some r }) := by
  unfold deliver
  cases s.rd.buspend with
  | true => simp [Option.isSome_iff_ne_none]
  | false => by_cases hseq : s.rd.seq = 0#4 <;> simp [busy, hseq]

/-- The state an answer is delivered at, with the answers that are left named. -/
theorem answered_eq {s : State} {a : BusRsp} {more : List BusRsp} (x : Sensor) (h : s.env.answers = a :: more) :
    answered x s =
      { s with
        bus := { s.bus with inFlight := s.bus.inFlight.tail, sensor := x }
        env := { s.env with answers := more } } := by
  rw [← List.tail_cons (a := a) (as := more), ← h]
  rfl

/-- Where the sensor is not written, only the request and its answer are used up. -/
theorem answered_sensor_self (s : State) : answered s.bus.sensor s = dropOldest (popAnswer s) := rfl

/-! ## A read request -/

section Read
variable (dev : BitVec 7) {reg len : Byte} (wdata : Byte) (timeout : Nat) {s : State}

/-- A read past offset 0xFF is refused. -/
theorem exec_rd_of_past_end (h : 256 < reg.toNat + len.toNat) :
    exec (.rd dev reg len wdata timeout) s = .refused .burstPastEnd :=
  if_neg (by simpa [fitsSpace] using h)

/-- A read without an answer yet waits. -/
theorem exec_rd_of_no_answer (h : reg.toNat + len.toNat ≤ 256) (ha : s.env.answers = []) :
    exec (.rd dev reg len wdata timeout) s = .next s := by
  simp [exec, execRd, fitsSpace, h, ha]

/-- An answered read delivers its answer and leaves the sensor as it is. -/
theorem exec_rd_of_answer {a : BusRsp} {more : List BusRsp} (h : reg.toNat + len.toNat ≤ 256)
    (ha : s.env.answers = a :: more) :
    exec (.rd dev reg len wdata timeout) s = deliver a (answered s.bus.sensor s) := by
  simp [exec, execRd, fitsSpace, h, ha, answered_sensor_self]

end Read

/-- Settles O31: an admitted, answered read is its answer delivered. -/
theorem readRequestAnswered : Obligations.ReadRequestAnswered := by
  intro s dev reg len wdata timeout
  refine ⟨exec_rd_of_past_end dev wdata timeout, fun hfits =>
    ⟨exec_rd_of_no_answer dev wdata timeout hfits, ?_⟩⟩
  intro a more ha
  rw [exec_rd_of_answer dev wdata timeout hfits ha, answered_eq _ ha]
  exact deliver_eq a _

/-! ## A write request -/

section Write
variable (dev : BitVec 7) (reg len wdata : Byte) (timeout : Nat) {s : State}

/-- A write without an answer yet waits. -/
theorem exec_wr_of_no_answer (ha : s.env.answers = []) : exec (.wr dev reg len wdata timeout) s = .next s := by
  simp [exec, execWr, ha]

/-- An answered write delivers its answer, with the sensor written if it was addressed and the write reported done. -/
theorem exec_wr_of_answer {a : BusRsp} {more : List BusRsp} (ha : s.env.answers = a :: more) :
    exec (.wr dev reg len wdata timeout) s =
      deliver a (answered
        (if a.ok = true ∧ dev = s.cfg.devAddr then s.bus.sensor.write s.cfg reg wdata else s.bus.sensor) s) := by
  by_cases hdone : a.ok = true ∧ dev = s.cfg.devAddr
  · simp [exec, execWr, ha, hdone, answered]
  · simp [exec, execWr, ha, hdone, answered_sensor_self]

end Write

/-- Settles O32: an answered write is its answer delivered with the sensor written or not; the rest is the rules of
`Sensor.write`. -/
theorem writeRequestAnswered : Obligations.WriteRequestAnswered := by
  refine ⟨fun s dev reg len wdata timeout => ⟨exec_wr_of_no_answer dev reg len wdata timeout, ?_⟩, fun c x reg v =>
    ⟨Sensor.read_write_self c x reg v, fun _ => Sensor.read_write_of_ne c x reg v,
      Sensor.humInEffect_write_of_ne x v, ?_⟩⟩
  · intro a more ha t
    rw [exec_wr_of_answer dev reg len wdata timeout ha, answered_eq _ ha, deliver_eq]
    refine ⟨fun hidle hseq => ?_, fun hidle hseq => ?_, fun hpend hlast hport => ?_, fun hpend hlast => ?_,
      fun hpend hlast hport => ?_⟩
    · simp [hidle, hseq, t]
    · simp [hidle, hseq]
    · simp [hpend, hlast, hport, t, State.withBus]
    · simp [hpend, hlast]
    · simp [hpend, hlast, hport]
  · rintro rfl hne
    rw [Sensor.humInEffect_write_ctrlMeas x v hne]
    exact ⟨fun h hread => by rw [hread, Option.some_or], fun hread => by rw [hread, Option.none_or]⟩

end Sys2Proof.Machine
end

-- ==== The encodings of the instructions and of the responses (30_encoding.md R91 to R99) ====
section
/-! PROOFS. Decoding undoes encoding, format by format; which opcodes the ports accept; the bits of the responses. -/

namespace Sys2Proof

/-! ## Numbers in bytes -/

/-- `k` bytes keep a number modulo `256 ^ k`; `bytesOfNat_natOfBytes` is the other direction. -/
theorem natOfBytes_bytesOfNat (k n : Nat) : natOfBytes (bytesOfNat k n) = n % 256 ^ k := by
  induction k generalizing n with
  | zero => simp [bytesOfNat, natOfBytes, Nat.mod_one]
  | succ k ih => rw [bytesOfNat, natOfBytes, ih, BitVec.toNat_ofNat, Nat.pow_succ' (m := 256), Nat.mod_mul]

/-! ## The bits of a request (30_encoding.md R96) -/

/-- A request comes back from its bits. -/
theorem reqOfBits_reqBits (q : BusReq) : reqOfBits (reqBits q) = q := by
  obtain ⟨kind, dev, reg, len, wdata, timeout⟩ := q
  simp only [reqOfBits, BusReq.mk.injEq]
  refine ⟨?kind, ?dev, ?reg, ?len, ?wdata, ?timeout⟩
  case kind =>
    cases kind with
    | rd => exact if_pos (by simp only [reqBits]; omega)
    | wr => exact if_neg (by simp only [reqBits]; omega)
  case timeout => cases kind <;> simp only [reqBits] <;> omega
  all_goals
    apply BitVec.eq_of_toNat_eq
    cases kind <;> simp only [reqBits, BitVec.toNat_ofNat] <;> omega

/-- A request whose timeout fits its `TW` bits has `32 + TW` bits. -/
theorem reqBits_lt {q : BusReq} {tw : Nat} (h : q.timeout < 2 ^ tw) : reqBits q < 2 ^ (32 + tw) := by
  have hfields : reqBits q < 4294967296 * (q.timeout + 1) := by
    cases hk : q.kind <;> simp only [reqBits, hk] <;> omega
  calc reqBits q < 4294967296 * (q.timeout + 1) := hfields
    _ ≤ 4294967296 * 2 ^ tw := Nat.mul_le_mul_left _ h
    _ = 2 ^ (32 + tw) := by rw [Nat.pow_add]

/-- The bytes of a request have room for its `32 + TW` bits. -/
theorem two_pow_le_reqBytes (tw : Nat) : 2 ^ (32 + tw) ≤ 256 ^ reqBytes tw := by
  calc 2 ^ (32 + tw) ≤ 2 ^ (8 * reqBytes tw) := Nat.pow_le_pow_right (by decide) (by simp only [reqBytes]; omega)
    _ = 256 ^ reqBytes tw := Nat.pow_mul 2 8 _

/-! ## Decoding what stands at the head of a byte list, format by format -/

/-- A frame gives its operand and what follows it (30_encoding.md R92). -/
theorem framePcmd_append {op len : Byte} {operand : List Byte} (rest : List Byte)
    (h : operand.length = len.toNat) : framePcmd (op :: len :: (operand ++ rest)) = some (op, operand, rest) := by
  simp [framePcmd, ← h]

/-- `PARSE` with the length of its operand in front of it (30_encoding.md R92). -/
theorem decode_pcmdv_append (tw : Nat) {len : Byte} {operand : List Byte} (rest : List Byte)
    (h : operand.length = len.toNat) :
    decode tw .pcmdv (0x03#8 :: len :: (operand ++ rest)) = .ok (.parse operand, rest) := by
  rw [decode, framePcmd_append rest h]
  rfl

/-- A step number of the RD unit in its byte, whatever follows (30_encoding.md R99). -/
theorem decode_seq4_cons (tw : Nat) (v : BitVec 4) (rest : List Byte) :
    decode tw .seq4 (v.setWidth 8 :: rest) = .ok (decodeSeq v, rest) := by
  have hlt : (v.setWidth 8).toNat < 16 := by simp; omega
  have hback : (v.setWidth 8).setWidth 4 = v := by simp
  simp only [decode, hlt, hback, if_true]

/-- A step number of the SP unit in its byte, whatever follows (30_encoding.md R99). -/
theorem decode_pseq3_cons (tw : Nat) (v : BitVec 3) (rest : List Byte) :
    decode tw .pseq3 (v.setWidth 8 :: rest) = .ok (decodePseq v, rest) := by
  have hlt : (v.setWidth 8).toNat < 8 := by simp; omega
  have hback : (v.setWidth 8).setWidth 3 = v := by simp
  simp only [decode, hlt, hback, if_true]

/-- A request whose timeout fits, in its bytes, whatever follows (30_encoding.md R96). -/
theorem decode_busreq_append {tw : Nat} {q : BusReq} (rest : List Byte) (h : q.timeout < 2 ^ tw) :
    decode tw .busreq (bytesOfNat (reqBytes tw) (reqBits q) ++ rest) = .ok (instrOfReq q, rest) := by
  have hlen : (bytesOfNat (reqBytes tw) (reqBits q)).length = reqBytes tw := bytesOfNat_length _ _
  have hbits : natOfBytes (bytesOfNat (reqBytes tw) (reqBits q)) = reqBits q := by
    rw [natOfBytes_bytesOfNat, Nat.mod_eq_of_lt ((reqBits_lt h).trans_le (two_pow_le_reqBytes tw))]
  simp only [decode, List.take_left' hlen, List.drop_left' hlen, hlen, hbits, reqOfBits_reqBits, Nat.lt_irrefl,
    if_false, reqBits_lt h, if_true]

/-! ## The round trip -/

/-- Settles O1, by the format of the instruction. -/
theorem decodeEncodeRoundTrip : Obligations.DecodeEncodeRoundTrip := by
  intro tw i rest hwf
  cases i with
  | init => rfl
  | read => rfl
  | parse operand =>
    have hlen : operand.length ≤ 255 := of_decide_eq_true hwf
    exact decode_pcmdv_append tw rest (by rw [BitVec.toNat_ofNat]; omega)
  | idle => exact decode_seq4_cons tw 0#4 rest
  | iId => exact decode_seq4_cons tw 1#4 rest
  | iCala => exact decode_seq4_cons tw 2#4 rest
  | iCalb => exact decode_seq4_cons tw 3#4 rest
  | iCalc => exact decode_seq4_cons tw 4#4 rest
  | iWhum => exact decode_seq4_cons tw 5#4 rest
  | iWmeas => exact decode_seq4_cons tw 6#4 rest
  | iWcfg => exact decode_seq4_cons tw 7#4 rest
  | iDone => exact decode_seq4_cons tw 8#4 rest
  | rData => exact decode_seq4_cons tw 9#4 rest
  | rUnpk => exact decode_seq4_cons tw 10#4 rest
  | rCmpt => exact decode_seq4_cons tw 11#4 rest
  | rCmpp => exact decode_seq4_cons tw 12#4 rest
  | rCmph => exact decode_seq4_cons tw 13#4 rest
  | rCvt => exact decode_seq4_cons tw 14#4 rest
  | rDone => exact decode_seq4_cons tw 15#4 rest
  | pIdle => exact decode_pseq3_cons tw 0#3 rest
  | pPfx => exact decode_pseq3_cons tw 1#3 rest
  | pCopy => exact decode_pseq3_cons tw 2#3 rest
  | pSplit => exact decode_pseq3_cons tw 3#3 rest
  | pCnt => exact decode_pseq3_cons tw 4#3 rest
  | pScan => exact decode_pseq3_cons tw 5#3 rest
  | pConv => exact decode_pseq3_cons tw 6#3 rest
  | pDone => exact decode_pseq3_cons tw 7#3 rest
  | rd dev reg len wdata timeout =>
    obtain ⟨_, htimeout⟩ := Bool.and_eq_true_iff.1 hwf
    exact decode_busreq_append (q := ⟨.rd, dev, reg, len, wdata, timeout⟩) rest (of_decide_eq_true htimeout)
  | wr dev reg len wdata timeout =>
    obtain ⟨_, htimeout⟩ := Bool.and_eq_true_iff.1 hwf
    exact decode_busreq_append (q := ⟨.wr, dev, reg, len, wdata, timeout⟩) rest (of_decide_eq_true htimeout)

/-- Settles O2: each word is, byte for byte, the encoding of its well-formed instruction. -/
theorem specWordsDecode : Obligations.SpecWordsDecode :=
  ⟨decodeEncodeRoundTrip 32 .init [] rfl,
    decodeEncodeRoundTrip 32 .read [] rfl,
    decodeEncodeRoundTrip 32 (.parse [0x24#8, 0x47#8, 0x50#8, 0x47#8, 0x47#8, 0x41#8, 0x2C#8]) [] rfl,
    decodeEncodeRoundTrip 32 (.parse []) [] rfl,
    decodeEncodeRoundTrip 32 .rCmpp [] rfl,
    decodeEncodeRoundTrip 32 .pScan [] rfl,
    decodeEncodeRoundTrip 0 (.rd 0x76#7 0xD0#8 0x01#8 0x00#8 0) [] rfl,
    decodeEncodeRoundTrip 0 (.rd 0x76#7 0x88#8 0x18#8 0x00#8 0) [] rfl,
    decodeEncodeRoundTrip 0 (.wr 0x76#7 0xF2#8 0x01#8 0x01#8 0) [] rfl,
    decodeEncodeRoundTrip 0 (.rd 0x76#7 0xF7#8 0x08#8 0x00#8 0) [] rfl⟩

/-! ## The opcodes of the ports (30_encoding.md R98) -/

theorem decodeCmd_eq_init_iff (op : Byte) : decodeCmd op = .ok .init ↔ op = 0x01#8 := by
  refine ⟨fun h => ?_, fun h => by rw [h]; rfl⟩
  unfold decodeCmd at h
  split at h
  · assumption
  · split at h <;> cases h

theorem decodeCmd_eq_read_iff (op : Byte) : decodeCmd op = .ok .read ↔ op = 0x02#8 := by
  refine ⟨fun h => ?_, fun h => by rw [h]; rfl⟩
  unfold decodeCmd at h
  split at h
  · cases h
  · split at h
    · assumption
    · cases h

theorem decodePcmd_eq_ok_iff (op : Byte) (operand : List Byte) (i : Instr) :
    decodePcmd op operand = .ok i ↔ op = 0x03#8 ∧ i = .parse operand := by
  refine ⟨fun h => ⟨?_, Machine.decodePcmd_ok h⟩, fun ⟨hop, hi⟩ => by rw [hop, hi]; rfl⟩
  unfold decodePcmd at h
  split at h
  · assumption
  · cases h

/-- Settles O3: each port's accepted opcodes, by the branches of its decoder. -/
theorem opcodeMap : Obligations.OpcodeMap :=
  ⟨decodeCmd_eq_init_iff, decodeCmd_eq_read_iff, fun _ _ => Machine.decodeCmd_ok_cases, decodePcmd_eq_ok_iff⟩

end Sys2Proof

namespace Sys2Proof.Machine

/-! ## The bits of the responses (30_encoding.md R93, R94) -/

/-- `VALID`, `OP` and `STATUS` of a valid `RSP`. -/
theorem Rsp.headBits_of_valid {r : Rsp} {op status : Byte} (hv : r.valid = true) (ho : r.op = .val op)
    (hs : r.status = .val status) : r.headBits = .val (1 + 2 * op.toNat + 2 ^ 9 * status.toNat) := by
  simp [Rsp.headBits, Rsp.field, hv, ho, hs, widenReg]
  omega

/-- `VALID`, `OP` and `STATUS` of a valid `PRSP`. -/
theorem Prsp.headBits_of_valid {r : Prsp} {op status : Byte} (hv : r.valid = true) (ho : r.op = .val op)
    (hs : r.status = .val status) : r.headBits = .val (1 + 2 * op.toNat + 2 ^ 9 * status.toNat) := by
  simp [Prsp.headBits, Prsp.field, hv, ho, hs, widenReg]
  omega

/-- The number of a concatenation: the low part fills its own bits, so nothing carries. -/
theorem toNat_append_eq_add {m n : Nat} (x : BitVec m) (y : BitVec n) :
    (x ++ y).toNat = 2 ^ n * x.toNat + y.toNat := by
  rw [BitVec.toNat_append, ← Nat.shiftLeft_add_eq_or_of_lt y.isLt, Nat.shiftLeft_eq, Nat.mul_comm]

/-- The 209 bits of a `RSP` that answers a `READ` with its payload. -/
theorem Rsp.wordBits_of_payload (tf pf hf tint pint hint : Word32) :
    Rsp.wordBits
        { valid := true, op := .val 0x02#8, status := .val 0x00#8, tf := .val tf, pf := .val pf, hf := .val hf
          tint := .val tint, pint := .val pint, hint := .val hint } =
      .val ((hint ++ pint ++ tint ++ hf ++ pf ++ tf ++ 0x00#8 ++ 0x02#8 ++ 1#1).toNat) := by
  rw [Rsp.wordBits, Rsp.headBits_of_valid rfl rfl rfl]
  simp only [toNat_append_eq_add]
  refine congrArg Reg.val ?_
  simp
  omega

/-- The 145 bits of a `PRSP` that answers a `PARSE` with its payload. -/
theorem Prsp.wordBits_of_payload (lat lon qual sats : Word32) :
    Prsp.wordBits
        { valid := true, op := .val 0x03#8, status := .val 0x00#8, lat := .val lat, lon := .val lon
          qual := .val qual, sats := .val sats } =
      .val ((sats ++ qual ++ lon ++ lat ++ 0x00#8 ++ 0x03#8 ++ 1#1).toNat) := by
  rw [Prsp.wordBits, Prsp.headBits_of_valid rfl rfl rfl]
  simp only [toNat_append_eq_add]
  refine congrArg Reg.val ?_
  simp
  omega

/-- Settles O60: the bit positions for all field values, and the vectors as cases of them. -/
theorem responseWords : Obligations.ResponseWords :=
  ⟨fun _ _ => Rsp.headBits_of_valid rfl rfl rfl, fun _ _ => Prsp.headBits_of_valid rfl rfl rfl,
    Rsp.wordBits_of_payload, Prsp.wordBits_of_payload,
    Rsp.headBits_of_valid (op := 0x01#8) (status := 0x00#8) rfl rfl rfl,
    Rsp.headBits_of_valid (op := 0x02#8) (status := 0x80#8) rfl rfl rfl,
    Prsp.headBits_of_valid (op := 0x03#8) (status := 0x05#8) rfl rfl rfl,
    Rsp.wordBits_of_payload _ _ _ _ _ _, Prsp.wordBits_of_payload _ _ _ _⟩

end Sys2Proof.Machine
end

-- ==== Taking INIT and READ (40_commands.md R120 to R125) ====
section
/-! PROOFS. What each command does to the unit, by the driver state it meets; a word on `CMD` is then its command run,
or the answer to an illegal opcode. -/

namespace Sys2Proof.Machine
open Sys2Proof.Expect

/-! ## The commands, by driver state -/

/-- A command started (R121, R122): no response yet, driver state `d`, step `v`. -/
def started (d : DState) (v : BitVec 4) (s : State) : State :=
  { s with rd := { s.rd with rsp := noAnswer, dstate := d, seq := v } }

/-- A word answered with a status and nothing else (R124, R125). -/
def refused (op status : Byte) (s : State) : State := { s with rd := { s.rd with rsp := answer op status } }

section Command
variable (s : State)

/-- `INIT` starts on a unit in `UNINIT` (R121). -/
theorem exec_init_of_uninit (hs : s.rd.seq = 0#4) (hd : s.rd.dstate = .uninit) :
    exec .init s = .next (started .initializing 1#4 s) := by
  simp only [exec, execInit, (cmdReady_iff s).2 hs, if_true, hd]
  rfl

/-- `INIT` on a ready unit is refused (R125). -/
theorem exec_init_of_ready (hs : s.rd.seq = 0#4) (hd : s.rd.dstate = .ready) :
    exec .init s = .next (refused 0x01#8 0x80#8 s) := by
  simp only [exec, execInit, (cmdReady_iff s).2 hs, if_true, hd]
  rfl

/-- `READ` starts on a ready unit (R122). -/
theorem exec_read_of_ready (hs : s.rd.seq = 0#4) (hd : s.rd.dstate = .ready) :
    exec .read s = .next (started .reading 9#4 s) := by
  simp only [exec, execRead, (cmdReady_iff s).2 hs, if_true, hd]
  rfl

/-- `READ` is refused in every other driver state (R125). -/
theorem exec_read_of_ne_ready (hs : s.rd.seq = 0#4) (hd : s.rd.dstate ≠ .ready) :
    exec .read s = .next (refused 0x02#8 0x80#8 s) := by
  rw [exec, execRead, if_pos ((cmdReady_iff s).2 hs)]
  split
  case h_1 hready => exact absurd hready hd
  all_goals rfl

end Command

/-- Settles O6: the two commands, by driver state. -/
theorem initAndReadTaken : Obligations.InitAndReadTaken := fun s hs =>
  ⟨exec_init_of_uninit s hs, exec_init_of_ready s hs, exec_read_of_ready s hs, exec_read_of_ne_ready s hs⟩

/-! ## A word on `CMD` at a host turn -/

/-- The state at which a word taken off `CMD` is run: its turn and the word are used up. -/
theorem withWords_popTurn (rest : List Byte) (s : State) :
    withWords rest (popTurn s) = { s with env := { s.env with turns := s.env.turns.tail, cmdIn := rest } } := rfl

section HostTurn
variable {s : State} {rest : List Byte} (hk : nextTurn s = .host)
include hk

/-- On a busy port the word waits (00_scope.md R15). -/
theorem step_host_of_busy (hs : s.rd.seq ≠ 0#4) : step s = .next (popTurn s) := by
  have hf : fetchHost (popTurn s) = .nothing (popTurn s) := if_neg ((cmdReady_iff (popTurn s)).not.2 hs)
  rw [step_of_nextTurn hk, fetchTurn, hf]
  rfl

/-- A word that is `INIT` is taken and run. -/
theorem step_host_of_init (hs : s.rd.seq = 0#4) (hc : s.env.cmdIn = 0x01#8 :: rest) :
    step s = exec .init (withWords rest (popTurn s)) :=
  step_host hk hs hc ((decodeCmd_eq_init_iff _).2 rfl)

/-- A word that is `READ` is taken and run. -/
theorem step_host_of_read (hs : s.rd.seq = 0#4) (hc : s.env.cmdIn = 0x02#8 :: rest) :
    step s = exec .read (withWords rest (popTurn s)) :=
  step_host hk hs hc ((decodeCmd_eq_read_iff _).2 rfl)

/-- Any other word is taken and answered with `IllegalCommand` (R124). -/
theorem step_host_of_illegal {op : Byte} (hs : s.rd.seq = 0#4) (hc : s.env.cmdIn = op :: rest)
    (hinit : op ≠ 0x01#8) (hread : op ≠ 0x02#8) :
    step s = .next (refused op 0x81#8 (withWords rest (popTurn s))) := by
  have hd : decodeCmd op = .error (.illegalOpcode op) := by rw [decodeCmd, if_neg hinit, if_neg hread]
  have hf : fetchHost (popTurn s) = .illegalCmd op (withWords rest (popTurn s)) := by
    simp [fetchHost, (cmdReady_iff (popTurn s)).2 hs, hc, hd, withWords]
  rw [step_of_nextTurn hk, fetchTurn, hf]
  rfl

end HostTurn

/-- Settles O4: by the word, and for a command by the driver state. -/
theorem commandAcceptance : Obligations.CommandAcceptance := by
  intro s op rest hk hc
  refine ⟨step_host_of_busy hk, fun hs hd => ?_⟩
  by_cases hinit : op = 0x01#8
  · subst hinit
    rw [step_host_of_init hk hs hc]
    obtain hd | hd := hd
    · rw [exec_init_of_uninit (withWords rest (popTurn s)) hs hd]
      simp [hd, started, withWords_popTurn]
    · rw [exec_init_of_ready (withWords rest (popTurn s)) hs hd]
      simp [hd, refused, withWords_popTurn]
  by_cases hread : op = 0x02#8
  · subst hread
    rw [step_host_of_read hk hs hc]
    obtain hd | hd := hd
    · rw [exec_read_of_ne_ready (withWords rest (popTurn s)) hs (by simp [hd, withWords_popTurn])]
      simp [hd, refused, withWords_popTurn]
    · rw [exec_read_of_ready (withWords rest (popTurn s)) hs hd]
      simp [hd, started, withWords_popTurn]
  · rw [step_host_of_illegal hk hs hc hinit hread]
    simp [hinit, hread, refused, withWords_popTurn]

end Sys2Proof.Machine
end

-- ==== Runs in the model's own order of turns (00_scope.md R14, log 1) ====
section
/-! PROOFS. With no turns given, one command of the RD unit runs undisturbed: the unit moves whenever it can, and the
collaborator while the unit waits. A transfer is then three steps: request, answer, completion. -/

namespace Sys2Proof.Machine
open Sys2Proof.Expect

/-! ## Runs -/

/-- A run whose first step goes on continues from there. -/
theorem run_succ {M : Host.Core} {n : Nat} {s t : M.State} (h : M.step s = .next t) :
    M.run (n + 1) s = M.run n t := by
  rw [Host.Core.run, h]

/-- A run of one step. -/
theorem run_one {s t : State} (h : step s = .next t) : Sys2Proof.core.run 1 s = .next t :=
  run_succ (M := Sys2Proof.core) h

/-- A run that goes on began with a step that does. -/
theorem step_of_run_succ {M : Host.Core} {n : Nat} {s u : M.State} (h : M.run (n + 1) s = .next u) :
    ∃ t, M.step s = .next t ∧ M.run n t = .next u := by
  rw [Host.Core.run] at h
  split at h
  · exact ⟨_, ‹_›, h⟩
  · cases h
  · cases h

/-- A run that begins with a run that goes on continues from there. -/
theorem run_add {M : Host.Core} {m n : Nat} {s t : M.State} (h : M.run m s = .next t) :
    M.run (m + n) s = M.run n t := by
  induction m generalizing s with
  | zero =>
    cases h
    rw [Nat.zero_add]
  | succ m ih =>
    obtain ⟨u, hs, hu⟩ := step_of_run_succ h
    rw [Nat.add_right_comm, run_succ hs, ih hu]

/-! ## Whose turn it is -/

/-- One command of the RD unit has the machine to itself: no turns are given, the SP unit is idle, and nothing is
outstanding on the bus. -/
structure Undisturbed (s : State) : Prop where
  turns : s.env.turns = []
  pidle : s.sp.pseq = 0#3
  idle : s.rd.buspend = false
  port : s.bus.busrsp = none
  noneHeld : s.bus.inFlight = []

/-- A list of turns that has run out stays so. -/
theorem popTurn_of_no_turns {s : State} (h : s.env.turns = []) : popTurn s = s := by
  have henv : { s.env with turns := s.env.turns.tail } = s.env := by rw [h, List.tail_nil, ← h]
  rw [popTurn, henv]
  rfl

section NoTurns
variable {s : State} (hturns : s.env.turns = [])
include hturns

theorem nextTurn_of_no_turns : nextTurn s = defaultTurn s := by rw [nextTurn, hturns]

/-- The RD unit steps while a command runs and it does not wait for the bus. -/
theorem step_of_rd_moves (hs : s.rd.seq ≠ 0#4) (hmoves : rdWaits s = false) :
    step s = exec (decodeSeq s.rd.seq) s := by
  have hk : nextTurn s = .rd := by
    rw [nextTurn_of_no_turns hturns]
    simp [defaultTurn, busy, hs, hmoves]
  rw [step_rd hk, popTurn_of_no_turns hturns]

/-- The collaborator answers while the RD unit waits and the SP unit is idle. -/
theorem step_of_rd_waits {q : BusReq} {a : BusRsp} {more : List BusReq} {answers : List BusRsp}
    (hwaits : rdWaits s = true) (hp : s.sp.pseq = 0#3) (hq : s.bus.inFlight = q :: more)
    (ha : s.env.answers = a :: answers) : step s = exec (instrOfReq q) s := by
  have hk : nextTurn s = .bus := by
    rw [nextTurn_of_no_turns hturns]
    simp [defaultTurn, hwaits, pbusy, hp, hq, ha]
  rw [step_bus hk hq, popTurn_of_no_turns hturns]

end NoTurns

/-- The idle machine takes the host's word. -/
theorem Undisturbed.nextTurn_host {s : State} (h : Undisturbed s) (hs : s.rd.seq = 0#4) {op : Byte}
    {words : List Byte} (hc : s.env.cmdIn = op :: words) : nextTurn s = .host := by
  rw [nextTurn_of_no_turns h.turns]
  simp [defaultTurn, busy, pbusy, hs, h.pidle, h.noneHeld, hc]

/-- In a command that runs undisturbed the RD unit takes its step. -/
theorem Undisturbed.step_eq {s : State} (h : Undisturbed s) (hs : s.rd.seq ≠ 0#4) :
    step s = exec (decodeSeq s.rd.seq) s :=
  step_of_rd_moves h.turns hs (by rw [rdWaits, h.idle, Bool.false_and])

/-- An update of the RD unit that issues nothing disturbs nothing. -/
theorem Undisturbed.withRd {s : State} (h : Undisturbed s) {r : RdUnit} (hr : r.buspend = false) :
    Undisturbed (s.withRd r) := ⟨h.turns, h.pidle, hr, h.port, h.noneHeld⟩

/-! ## A whole transfer -/

/-- The sensor after the collaborator has answered `q` with `a`: only a write reported done, to this device, changes
it. -/
def sensorAfter (q : BusReq) (a : BusRsp) (s : State) : Sensor :=
  match q.kind with
  | .rd => s.bus.sensor
  | .wr => if a.ok = true ∧ q.dev = s.cfg.devAddr then s.bus.sensor.write s.cfg q.reg q.wdata else s.bus.sensor

/-- A request that is answered is its answer delivered. -/
theorem exec_instrOfReq_of_answer {s : State} {q : BusReq} {a : BusRsp} {more : List BusRsp}
    (hf : fitsSpace q.reg q.len = true) (ha : s.env.answers = a :: more) :
    exec (instrOfReq q) s = deliver a (answered (sensorAfter q a s) s) := by
  cases hk : q.kind with
  | rd =>
    simp only [instrOfReq, sensorAfter, hk]
    exact exec_rd_of_answer q.dev q.wdata q.timeout (of_decide_eq_true hf) ha
  | wr =>
    simp only [instrOfReq, sensorAfter, hk]
    exact exec_wr_of_answer q.dev q.reg q.len q.wdata q.timeout ha

/-- A transfer over, its response taken: the request is recorded, the sensor left as `x`, the next answers are `more`,
and nothing is outstanding. -/
def exchanged (q : BusReq) (x : Sensor) (more : List BusRsp) (s : State) : State :=
  { s with
    rd := { s.rd with busreqR := .val q, buspend := false }
    bus := { busrsp := none, inFlight := [], sensor := x }
    env := { s.env with answers := more } }

/-- The middle of a transfer: the response to `q` is on the port. -/
def responded (q : BusReq) (x : Sensor) (more : List BusRsp) (a : BusRsp) (s : State) : State :=
  { s with
    rd := { s.rd with busreqR := .val q, buspend := true }
    bus := { busrsp := some a, inFlight := [], sensor := x }
    env := { s.env with answers := more } }

/-- Three steps carry a transfer from its request to its completion. -/
theorem Undisturbed.run_transfer {s : State} {q : BusReq} {complete : BusRsp → State → State} {a : BusRsp}
    {more : List BusRsp} (h : Undisturbed s) (hs : s.rd.seq ≠ 0#4) (hf : fitsSpace q.reg q.len = true)
    (hexec : ∀ t, t.cfg = s.cfg → exec (decodeSeq s.rd.seq) t = transfer q complete t)
    (ha : s.env.answers = a :: more) :
    Sys2Proof.core.run 3 s = .next (complete a (exchanged q (sensorAfter q a s) more s)) := by
  have hissue : step s = .next (issue q s) := by
    rw [h.step_eq hs, hexec s rfl, transfer, h.idle, hf]
    rfl
  have hanswer : step (issue q s) = .next (responded q (sensorAfter q a s) more a s) := by
    have hwaits : rdWaits (issue q s) = true := by simp [rdWaits, h.port]
    have hq : (issue q s).bus.inFlight = [q] := by simp [h.noneHeld]
    rw [step_of_rd_waits (s := issue q s) h.turns hwaits h.pidle hq ha,
      exec_instrOfReq_of_answer (s := issue q s) hf ha, answered_eq (s := issue q s) _ ha, deliver_eq]
    simp [h.port, h.noneHeld, responded, sensorAfter, State.withBus]
  have hcomplete : step (responded q (sensorAfter q a s) more a s) =
      .next (complete a (exchanged q (sensorAfter q a s) more s)) :=
    (step_of_rd_moves (s := responded q (sensorAfter q a s) more a s) h.turns hs rfl).trans (hexec _ rfl)
  exact (run_succ (M := Sys2Proof.core) hissue).trans
    ((run_succ (M := Sys2Proof.core) hanswer).trans (run_one hcomplete))

end Sys2Proof.Machine
end

-- ==== A whole INIT (40_commands.md R121) ====
section
/-! PROOFS. Where a command that runs undisturbed stands, kept from transfer to transfer; `INIT` is its seven transfers
in order. -/

namespace Sys2Proof.Machine
open Sys2Proof.Expect

/-! ## Where a command stands -/

/-- A command whose word is taken at `s` runs undisturbed and is at `t` about to take step `k`, with calibration `cal`,
the sensor left as `x` and the answers `rs` to come; what it has no part in is as at `s`. -/
structure Reached (s : State) (k : BitVec 4) (cal : Cal) (x : Sensor) (rs : List BusRsp) (t : State) : Prop where
  undisturbed : Undisturbed t
  cfg : t.cfg = s.cfg
  sp : t.sp = s.sp
  words : t.env.cmdIn = s.env.cmdIn.tail
  seq : t.rd.seq = k
  cal : t.rd.cal = cal
  sensor : t.bus.sensor = x
  answers : t.env.answers = rs

/-- The host's word starts a command on the idle machine. -/
theorem Undisturbed.starts {s : State} {i : Instr} {op : Byte} {words : List Byte} {d : DState} {v : BitVec 4}
    (h : Undisturbed s) (hs : s.rd.seq = 0#4) (hc : s.env.cmdIn = op :: words) (hi : decodeCmd op = .ok i)
    (hexec : exec i (withWords words s) = .next (started d v (withWords words s))) :
    ∃ t, Sys2Proof.core.run 1 s = .next t ∧ Reached s v s.rd.cal s.bus.sensor s.env.answers t := by
  have hstep : step s = exec i (withWords words (popTurn s)) := step_host (h.nextTurn_host hs hc) hs hc hi
  rw [popTurn_of_no_turns h.turns, hexec] at hstep
  exact ⟨_, run_one hstep,
    ⟨h.turns, h.pidle, h.idle, h.port, h.noneHeld⟩, rfl, rfl, by rw [hc]; rfl, rfl, rfl, rfl, rfl⟩

section Transfers
variable {s u : State} {k k' : BitVec 4} {cal : Cal} {x : Sensor} {r : BusRsp} {rs : List BusRsp}

/-- A read that is answered with its bytes: they are in `XBUF`, and the command is at step `k'` with what `done` makes
of the calibration. -/
theorem Reached.read {reg : Config → Byte} {n : Nat} {op : Byte} {e : Err} {done : List Byte → State → State}
    {f : Cal → Cal} (h : Reached s k cal x (r :: rs) u) (hk : k ≠ 0#4)
    (hexec : ∀ t, exec (decodeSeq k) t = readTransfer (reg t.cfg) n op e done t)
    (hf : fitsSpace (reg s.cfg) (BitVec.ofNat 8 n) = true) (hok : r.ok = true) (hlen : r.data.length = n)
    (hdone : ∀ t, t.cfg = s.cfg → done r.data t = setSeq k' (t.withRd { t.rd with cal := f t.rd.cal })) :
    ∃ t, Sys2Proof.core.run 3 u = .next t ∧ Reached s k' (f cal) x rs t ∧
      t.rd.xbuf.take r.data.length = r.data.map Reg.val := by
  obtain ⟨hu, hcfg, hsp, hwords, rfl, rfl, rfl, hrs⟩ := h
  have hjudge : judgeRead n r = some r.data := if_pos ⟨hok, hlen⟩
  have hsensor : sensorAfter (readReq s.cfg (reg s.cfg) n) r u = u.bus.sensor := rfl
  have hrun := hu.run_transfer hk hf (fun t ht => by rw [hexec, readTransfer, ht, hcfg]) hrs
  simp only [hjudge, hsensor] at hrun
  rw [hdone (loadXbuf r.data (exchanged (readReq s.cfg (reg s.cfg) n) u.bus.sensor rs u)) hcfg] at hrun
  exact ⟨_, hrun, ⟨⟨hu.turns, hu.pidle, rfl, rfl, rfl⟩, hcfg, hsp, hwords, rfl, rfl, rfl, rfl⟩,
    overwrite_take r.data u.rd.xbuf⟩

/-- A write that is reported done: its byte is at the sensor, and the command is at step `k'`. -/
theorem Reached.write {reg v : Config → Byte} (h : Reached s k cal x (r :: rs) u) (hk : k ≠ 0#4)
    (hexec : ∀ t, exec (decodeSeq k) t = writeTransfer (reg t.cfg) (v t.cfg) k' t) (hok : r.ok = true) :
    ∃ t, Sys2Proof.core.run 3 u = .next t ∧ Reached s k' cal (x.write s.cfg (reg s.cfg) (v s.cfg)) rs t := by
  obtain ⟨hu, hcfg, hsp, hwords, rfl, rfl, rfl, hrs⟩ := h
  have hsensor : sensorAfter (writeReq s.cfg (reg s.cfg) (v s.cfg)) r u =
      u.bus.sensor.write s.cfg (reg s.cfg) (v s.cfg) := by
    simp [sensorAfter, writeReq, hok, hcfg]
  have hrun := hu.run_transfer hk (fitsSpace_one (reg s.cfg))
    (fun t ht => by rw [hexec, writeTransfer, ht, hcfg]) hrs
  simp only [hok, if_true, hsensor] at hrun
  exact ⟨_, hrun, ⟨hu.turns, hu.pidle, rfl, rfl, rfl⟩, hcfg, hsp, hwords, rfl, rfl, rfl, rfl⟩

end Transfers

/-! ## The transfers of `INIT` -/

/-- `CAL` with block A in it (R145). -/
def Cal.withA (a : BlockA) (c : Cal) : Cal :=
  { c with
    t1 := .val a.t1, t2 := .val a.t2, t3 := .val a.t3, p1 := .val a.p1, p2 := .val a.p2, p3 := .val a.p3
    p4 := .val a.p4, p5 := .val a.p5, p6 := .val a.p6, p7 := .val a.p7, p8 := .val a.p8, p9 := .val a.p9 }

/-- `CAL` with `H1` in it (R146). -/
def Cal.withB (h1 : Byte) (c : Cal) : Cal := { c with h1 := .val h1 }

/-- `CAL` with block C in it (R147). -/
def Cal.withC (b : BlockC) (c : Cal) : Cal :=
  { c with h2 := .val b.h2, h3 := .val b.h3, h4 := .val b.h4, h5 := .val b.h5, h6 := .val b.h6 }

/-- The three blocks fill the calibration file, whatever stood there. -/
theorem withC_withB_withA (a : BlockA) (h1 : Byte) (b : BlockC) (c : Cal) :
    ((c.withA a).withB h1).withC b = fullCal a h1 b := rfl

/-! Each transfer step of `INIT` as a transfer, by its number. -/

theorem exec_iId (s : State) : exec (decodeSeq 1#4) s =
    readTransfer s.cfg.idReg 1 opInit .identityMismatch checkIdentity s := rfl

theorem exec_iCala (s : State) : exec (decodeSeq 2#4) s =
    readTransfer s.cfg.calaReg Config.calaLen opInit .calibrationReadFailed
      (fun a t => setSeq 3#4 (storeBlockA (decA t.cfg a) t)) s := rfl

theorem exec_iCalb (s : State) : exec (decodeSeq 3#4) s =
    readTransfer s.cfg.calbReg Config.calbLen opInit .calibrationReadFailed
      (fun b t => setSeq 4#4 (storeBlockB (decB t.cfg b) t)) s := rfl

theorem exec_iCalc (s : State) : exec (decodeSeq 4#4) s =
    readTransfer s.cfg.calcReg Config.calcLen opInit .calibrationReadFailed
      (fun c t => setSeq 5#4 (storeBlockC (decC t.cfg c) t)) s := rfl

theorem exec_iWhum (s : State) : exec (decodeSeq 5#4) s =
    writeTransfer s.cfg.ctrlHumReg s.cfg.ctrlHumVal 6#4 s := rfl

theorem exec_iWmeas (s : State) : exec (decodeSeq 6#4) s =
    writeTransfer s.cfg.ctrlMeasReg s.cfg.ctrlMeasVal 7#4 s := rfl

theorem exec_iWcfg (s : State) : exec (decodeSeq 7#4) s =
    writeTransfer s.cfg.configReg s.cfg.configVal 8#4 s := rfl

section InitTransfers
variable {s u : State} {cal : Cal} {x : Sensor} {r : BusRsp} {rs : List BusRsp}

/-- Step `I_ID` with the identity as it should be (R144). -/
theorem Reached.identity (h : Reached s 1#4 cal x (r :: rs) u) (hok : r.ok = true) (hdata : r.data = [s.cfg.idValue]) :
    ∃ t, Sys2Proof.core.run 3 u = .next t ∧ Reached s 2#4 cal x rs t := by
  obtain ⟨t, hrun, ht, -⟩ := h.read (f := id) (reg := Config.idReg) (by decide) exec_iId (fitsSpace_one _) hok
    (by rw [hdata]; rfl) (fun t ht => by rw [hdata, checkIdentity, ht]; exact if_pos rfl)
  exact ⟨t, hrun, ht⟩

/-- Step `I_CALA` with its block (R145). -/
theorem Reached.blockA (h : Reached s 2#4 cal x (r :: rs) u) (hc : s.cfg.admitted = true) (hok : r.ok = true)
    (hlen : r.data.length = 24) :
    ∃ t, Sys2Proof.core.run 3 u = .next t ∧ Reached s 3#4 (cal.withA (decA s.cfg r.data)) x rs t := by
  obtain ⟨hA, -, -⟩ := fitsSpace_of_admitted hc
  obtain ⟨t, hrun, ht, -⟩ := h.read (f := Cal.withA (decA s.cfg r.data)) (reg := Config.calaReg) (by decide)
    exec_iCala hA hok hlen (fun t ht => by rw [← ht]; rfl)
  exact ⟨t, hrun, ht⟩

/-- Step `I_CALB` with its byte (R146). -/
theorem Reached.blockB (h : Reached s 3#4 cal x (r :: rs) u) (hok : r.ok = true) (hlen : r.data.length = 1) :
    ∃ t, Sys2Proof.core.run 3 u = .next t ∧ Reached s 4#4 (cal.withB (decB s.cfg r.data)) x rs t := by
  obtain ⟨t, hrun, ht, -⟩ := h.read (f := Cal.withB (decB s.cfg r.data)) (reg := Config.calbReg) (by decide)
    exec_iCalb (fitsSpace_one _) hok hlen (fun t ht => by rw [← ht]; rfl)
  exact ⟨t, hrun, ht⟩

/-- Step `I_CALC` with its block (R147). -/
theorem Reached.blockC (h : Reached s 4#4 cal x (r :: rs) u) (hc : s.cfg.admitted = true) (hok : r.ok = true)
    (hlen : r.data.length = 7) :
    ∃ t, Sys2Proof.core.run 3 u = .next t ∧ Reached s 5#4 (cal.withC (decC s.cfg r.data)) x rs t := by
  obtain ⟨-, hC, -⟩ := fitsSpace_of_admitted hc
  obtain ⟨t, hrun, ht, -⟩ := h.read (f := Cal.withC (decC s.cfg r.data)) (reg := Config.calcReg) (by decide)
    exec_iCalc hC hok hlen (fun t ht => by rw [← ht]; rfl)
  exact ⟨t, hrun, ht⟩

/-- The sensor after the three configuration writes of `INIT` (R148 to R150). -/
def configured (c : Config) (x : Sensor) : Sensor :=
  ((x.write c c.ctrlHumReg c.ctrlHumVal).write c c.ctrlMeasReg c.ctrlMeasVal).write c c.configReg c.configVal

/-- The steps `I_WHUM`, `I_WMEAS`, `I_WCFG`, each reported done (R148 to R150). -/
theorem Reached.configuration {r r' r'' : BusRsp} (h : Reached s 5#4 cal x (r :: r' :: r'' :: rs) u)
    (hok : r.ok = true) (hok' : r'.ok = true) (hok'' : r''.ok = true) :
    ∃ t, Sys2Proof.core.run 9 u = .next t ∧ Reached s 8#4 cal (configured s.cfg x) rs t := by
  obtain ⟨t, hrun, ht⟩ := h.write (reg := Config.ctrlHumReg) (v := Config.ctrlHumVal) (by decide) exec_iWhum hok
  obtain ⟨t', hrun', ht'⟩ := ht.write (reg := Config.ctrlMeasReg) (v := Config.ctrlMeasVal) (by decide) exec_iWmeas hok'
  obtain ⟨t'', hrun'', ht''⟩ := ht'.write (reg := Config.configReg) (v := Config.configVal) (by decide) exec_iWcfg hok''
  exact ⟨t'', (run_add (n := 6) hrun).trans ((run_add (n := 3) hrun').trans hrun''), ht''⟩

/-- Once `INIT` has configured the sensor the humidity setting is in effect, also where the last write goes to the
measurement-control register again (20_memory.md R75, log 12). -/
theorem humInEffect_configured (c : Config) (x : Sensor) (hne : c.ctrlHumReg ≠ c.ctrlMeasReg) :
    (configured c x).humInEffect = some c.ctrlHumVal := by
  by_cases hcfg : c.configReg = c.ctrlMeasReg
  · have hkept : c.ctrlHumReg.toNat ≠ c.ctrlMeasReg.toNat := fun hn => hne (BitVec.eq_of_toNat_eq hn)
    rw [configured, hcfg, Sensor.humInEffect_write_ctrlMeas _ _ hne, Sensor.read_write_of_ne _ _ _ _ hkept,
      Sensor.read_write_self, Option.some_or]
  · rw [configured, Sensor.humInEffect_write_of_ne _ _ hcfg, Sensor.humInEffect_write_ctrlMeas _ _ hne,
      Sensor.read_write_self, Option.some_or]

/-- Step `I_DONE` (R151). -/
theorem Reached.initDone (h : Reached s 8#4 cal x rs u) :
    Sys2Proof.core.run 1 u =
      .next (u.withRd { u.rd with dstate := .ready, rsp := answer 0x01#8 0x00#8, seq := 0#4 }) := by
  refine run_one ?_
  rw [h.undisturbed.step_eq (by rw [h.seq]; decide), h.seq]
  rfl

end InitTransfers

/-- Settles O55: the host's word, the seven transfers and `I_DONE`, each from where the one before leaves the unit. -/
theorem initRun : Obligations.InitRun := by
  intro s r0 r1 r2 r3 r4 r5 r6 words more hc hne hs hd hidle hport hfl hp hturns hcmd hans hok hid hA hB hC
  simp only [List.mem_cons, List.not_mem_nil, or_false, forall_eq_or_imp, forall_eq] at hok
  obtain ⟨ok0, ok1, ok2, ok3, ok4, ok5, ok6⟩ := hok
  have h : Undisturbed s := ⟨hturns, hp, hidle, hport, hfl⟩
  obtain ⟨t0, run0, h0⟩ := h.starts hs hcmd (by decide) (exec_init_of_uninit (withWords words s) hs hd)
  rw [hans] at h0
  obtain ⟨t1, run1, h1⟩ := h0.identity ok0 hid
  obtain ⟨t2, run2, h2⟩ := h1.blockA hc ok1 hA
  obtain ⟨t3, run3, h3⟩ := h2.blockB ok2 hB
  obtain ⟨t4, run4, h4⟩ := h3.blockC hc ok3 hC
  obtain ⟨t5, run5, h5⟩ := h4.configuration ok4 ok5 ok6
  have hrun :=
    calc Sys2Proof.core.run 23 s
      _ = Sys2Proof.core.run 22 t0 := run_add (n := 22) run0
      _ = Sys2Proof.core.run 19 t1 := run_add (n := 19) run1
      _ = Sys2Proof.core.run 16 t2 := run_add (n := 16) run2
      _ = Sys2Proof.core.run 13 t3 := run_add (n := 13) run3
      _ = Sys2Proof.core.run 10 t4 := run_add (n := 10) run4
      _ = Sys2Proof.core.run 1 t5 := run_add (n := 1) run5
      _ = _ := h5.initDone
  exact ⟨_, hrun, rfl, rfl, rfl, h5.cal.trans (withC_withB_withA _ _ _ _), h5.undisturbed.idle,
    h5.undisturbed.noneHeld, (congrArg Sensor.humInEffect h5.sensor).trans (humInEffect_configured s.cfg _ hne),
    h5.words.trans (congrArg List.tail hcmd), h5.answers, h5.sp⟩

end Sys2Proof.Machine
end

-- ==== A whole READ (40_commands.md R122) ====
section
/-! PROOFS. What each step of `READ` after the burst makes of the unit once its operands hold values; `READ` is its one
transfer and these steps in order. -/

namespace Sys2Proof.Machine
open Sys2Proof.Expect

/-! ## The steps after the burst, with their operands there -/

/-- After `R_UNPK` of the burst `d` (R153). -/
def unpacked (d : List Byte) (s : State) : State :=
  s.withRd { s.rd with rawP := .val (unpackP d), rawT := .val (unpackT d), rawH := .val (unpackH d), seq := 11#4 }

/-- After `R_CMPT` with `TFINE` and `TINT` computed (R154). -/
def withTemp (temp : Word32 × Word32) (s : State) : State :=
  s.withRd { s.rd with tfine := .val temp.1, tint := .val temp.2, seq := 12#4 }

/-- After `R_CMPP` with `PINT` computed (R155). -/
def withPres (pres : Word32) (s : State) : State := s.withRd { s.rd with pint := .val pres, seq := 13#4 }

/-- After `R_CMPH` with `HINT` computed (R156). -/
def withHum (hum : Word32) (s : State) : State := s.withRd { s.rd with hint := .val hum, seq := 14#4 }

/-- After `R_CVT` with the three values scaled (R157). -/
def withScaled (tf pf hf : Word32) (s : State) : State :=
  s.withRd { s.rd with tf := .val tf, pf := .val pf, hf := .val hf, seq := 15#4 }

/-- A `RSP` that answers a `READ` with its payload (R93, R158). -/
def readAnswer (tf pf hf tint pint hint : Word32) : Rsp :=
  { valid := true, op := .val 0x02#8, status := .val 0x00#8, tf := .val tf, pf := .val pf, hf := .val hf
    tint := .val tint, pint := .val pint, hint := .val hint }

section Steps
variable {s : State} {a : BlockA} {h1 : Byte} {b : BlockC}

theorem exec_rUnpk_of_burst {d : List Byte} (hd : d.length = 8) (hx : s.rd.xbuf.take d.length = d.map Reg.val) :
    exec .rUnpk s = .next (unpacked d s) := by
  have hread : readCells .xbuf s.rd.xbuf 0 d.length = .ok d := readCells_of_take hx
  rw [hd] at hread
  rw [exec, execRUnpk, Config.dataLen, hread]
  rfl

theorem exec_rCmpt_of_operands {adcT : BitVec 20} (hcal : s.rd.cal = fullCal a h1 b) (hT : s.rd.rawT = .val adcT) :
    exec .rCmpt s = .next (withTemp (compT s.cfg a.t1 a.t2 a.t3 adcT) s) := by
  have hops : tempOperands s = .ok (a.t1, a.t2, a.t3, adcT) := by
    rw [tempOperands, hcal, hT]
    rfl
  rw [exec, execRCmpt, hops]
  rfl

theorem exec_rCmpp_of_operands {tfine : Word32} {adcP : BitVec 20} (hcal : s.rd.cal = fullCal a h1 b)
    (hfine : s.rd.tfine = .val tfine) (hP : s.rd.rawP = .val adcP) :
    exec .rCmpp s =
      .next (withPres (compP s.cfg ⟨a.p1, a.p2, a.p3, a.p4, a.p5, a.p6, a.p7, a.p8, a.p9⟩ tfine adcP) s) := by
  have hops : presOperands s = .ok (⟨a.p1, a.p2, a.p3, a.p4, a.p5, a.p6, a.p7, a.p8, a.p9⟩, tfine, adcP) := by
    rw [presOperands, hcal, hfine, hP]
    rfl
  rw [exec, execRCmpp, hops]
  rfl

theorem exec_rCmph_of_operands {tfine : Word32} {adcH : BitVec 16} (hcal : s.rd.cal = fullCal a h1 b)
    (hfine : s.rd.tfine = .val tfine) (hH : s.rd.rawH = .val adcH) :
    exec .rCmph s = .next (withHum (compH s.cfg ⟨h1, b.h2, b.h3, b.h4, b.h5, b.h6⟩ tfine adcH) s) := by
  have hops : humOperands s = .ok (⟨h1, b.h2, b.h3, b.h4, b.h5, b.h6⟩, tfine, adcH) := by
    rw [humOperands, hcal, hfine, hH]
    rfl
  rw [exec, execRCmph, hops]
  rfl

variable {tint pint hint : Word32}

theorem integerStage_of_vals (hT : s.rd.tint = .val tint) (hP : s.rd.pint = .val pint) (hH : s.rd.hint = .val hint) :
    integerStage s = .ok (tint, pint, hint) := by
  rw [integerStage, hT, hP, hH]
  rfl

theorem exec_rCvt_of_operands (hT : s.rd.tint = .val tint) (hP : s.rd.pint = .val pint) (hH : s.rd.hint = .val hint) :
    exec .rCvt s = .next (withScaled (cvtT s.cfg tint) (cvtP s.cfg pint) (cvtH s.cfg hint) s) := by
  rw [exec, execRCvt, integerStage_of_vals hT hP hH]
  rfl

theorem exec_rDone_of_operands {tf pf hf : Word32} (hT : s.rd.tint = .val tint) (hP : s.rd.pint = .val pint)
    (hH : s.rd.hint = .val hint) (htf : s.rd.tf = .val tf) (hpf : s.rd.pf = .val pf) (hhf : s.rd.hf = .val hf) :
    exec .rDone s =
      .next (s.withRd { s.rd with dstate := .ready, rsp := readAnswer tf pf hf tint pint hint, seq := 0#4 }) := by
  have hops : floatStage s = .ok (tf, pf, hf) := by
    rw [floatStage, htf, hpf, hhf]
    rfl
  rw [exec, execRDone, hops, onRead_ok, integerStage_of_vals hT hP hH]
  rfl

end Steps

/-- A step of an undisturbed command that stays within the RD unit. -/
theorem Undisturbed.step_at {s : State} {k : BitVec 4} {r : RdUnit} (h : Undisturbed s) (hs : s.rd.seq = k)
    (hk : k ≠ 0#4) (hexec : exec (decodeSeq k) s = .next (s.withRd r)) (hr : r.buspend = false) :
    step s = .next (s.withRd r) ∧ Undisturbed (s.withRd r) := by
  subst hs
  exact ⟨(h.step_eq hk).trans hexec, h.withRd hr⟩

/-- Six steps take the burst `d` to the response (R153 to R158): pressure and humidity use the fine temperature of the
same burst (70_reset_and_hazards.md R310). -/
theorem Undisturbed.run_compute {u : State} {a : BlockA} {h1 : Byte} {b : BlockC} {d : List Byte}
    {temp : Word32 × Word32} {pres hum : Word32} (h : Undisturbed u) (hs : u.rd.seq = 10#4)
    (hcal : u.rd.cal = fullCal a h1 b) (hd : d.length = 8) (hx : u.rd.xbuf.take d.length = d.map Reg.val)
    (htemp : compT u.cfg a.t1 a.t2 a.t3 (unpackT d) = temp)
    (hpres : compP u.cfg ⟨a.p1, a.p2, a.p3, a.p4, a.p5, a.p6, a.p7, a.p8, a.p9⟩ temp.1 (unpackP d) = pres)
    (hhum : compH u.cfg ⟨h1, b.h2, b.h3, b.h4, b.h5, b.h6⟩ temp.1 (unpackH d) = hum) :
    ∃ r : RdUnit, Sys2Proof.core.run 6 u = .next (u.withRd r) ∧ r.dstate = .ready ∧ r.seq = 0#4 ∧
      r.cal = u.rd.cal ∧ r.rsp = readAnswer (cvtT u.cfg temp.2) (cvtP u.cfg pres) (cvtH u.cfg hum) temp.2 pres hum := by
  subst htemp hpres hhum
  obtain ⟨step0, after0⟩ := h.step_at hs (by decide) (exec_rUnpk_of_burst hd hx) h.idle
  obtain ⟨step1, after1⟩ := after0.step_at (k := 11#4) rfl (by decide) (exec_rCmpt_of_operands hcal rfl) h.idle
  obtain ⟨step2, after2⟩ := after1.step_at (k := 12#4) rfl (by decide) (exec_rCmpp_of_operands hcal rfl rfl) h.idle
  obtain ⟨step3, after3⟩ := after2.step_at (k := 13#4) rfl (by decide) (exec_rCmph_of_operands hcal rfl rfl) h.idle
  obtain ⟨step4, after4⟩ := after3.step_at (k := 14#4) rfl (by decide) (exec_rCvt_of_operands rfl rfl rfl) h.idle
  obtain ⟨step5, -⟩ := after4.step_at (k := 15#4) rfl (by decide)
    (exec_rDone_of_operands rfl rfl rfl rfl rfl rfl) h.idle
  have hrun :=
    calc Sys2Proof.core.run 6 u
      _ = Sys2Proof.core.run 5 _ := run_add (n := 5) (run_one step0)
      _ = Sys2Proof.core.run 4 _ := run_add (n := 4) (run_one step1)
      _ = Sys2Proof.core.run 3 _ := run_add (n := 3) (run_one step2)
      _ = Sys2Proof.core.run 2 _ := run_add (n := 2) (run_one step3)
      _ = Sys2Proof.core.run 1 _ := run_add (n := 1) (run_one step4)
      _ = _ := run_one step5
  exact ⟨_, hrun, rfl, rfl, rfl, rfl⟩

/-! ## The whole command -/

theorem exec_rData (s : State) : exec (decodeSeq 9#4) s =
    readTransfer s.cfg.dataReg Config.dataLen opRead .readFailed (fun _ t => setSeq 10#4 t) s := rfl

/-- Step `R_DATA` with its burst (R152). -/
theorem Reached.burst {s u : State} {cal : Cal} {x : Sensor} {r : BusRsp} {rs : List BusRsp}
    (h : Reached s 9#4 cal x (r :: rs) u) (hc : s.cfg.admitted = true) (hok : r.ok = true) (hlen : r.data.length = 8) :
    ∃ t, Sys2Proof.core.run 3 u = .next t ∧ Reached s 10#4 cal x rs t ∧
      t.rd.xbuf.take r.data.length = r.data.map Reg.val := by
  obtain ⟨-, -, hD⟩ := fitsSpace_of_admitted hc
  exact h.read (f := id) (reg := Config.dataReg) (by decide) exec_rData hD hok hlen fun _ _ => rfl

/-- Settles O56: the host's word, the burst, and the six steps that compute from it. -/
theorem readRun : Obligations.ReadRun := by
  intro s a calH1 b r words more hc hs hd hidle hport hfl hp hturns hcmd hcal hans hok hlen temp pres hum
  have h : Undisturbed s := ⟨hturns, hp, hidle, hport, hfl⟩
  obtain ⟨t0, run0, h0⟩ := h.starts hs hcmd (by decide) (exec_read_of_ready (withWords words s) hs hd)
  rw [hans] at h0
  obtain ⟨t1, run1, h1, hburst⟩ := h0.burst hc hok hlen
  obtain ⟨r2, run2, hready, hseq, hkept, hrsp⟩ := h1.undisturbed.run_compute h1.seq (h1.cal.trans hcal) hlen hburst
    (temp := temp) (pres := pres) (hum := hum) (by rw [h1.cfg]) (by rw [h1.cfg]) (by rw [h1.cfg])
  have hrun :=
    calc Sys2Proof.core.run 10 s
      _ = Sys2Proof.core.run 9 t0 := run_add (n := 9) run0
      _ = Sys2Proof.core.run 6 t1 := run_add (n := 6) run1
      _ = _ := run2
  rw [h1.cfg] at hrsp
  exact ⟨_, hrun, hready, hseq, hkept.trans h1.cal, hrsp, h1.undisturbed.noneHeld,
    h1.words.trans (congrArg List.tail hcmd), h1.answers, h1.sp⟩

end Sys2Proof.Machine
end

-- ==== The transfer steps (41_sequencer.md R142 to R152) ====
section
/-! PROOFS. What each half of a transfer leaves, said once for every request; a transfer step is then its request and
what its completion stores. `I_DONE`, the one step of `INIT` without a transfer, stands with them. -/

namespace Sys2Proof.Machine
open Sys2Proof.Expect

/-! ## The halves of a transfer -/

section Halves
variable {s : State} {q : BusReq} {complete : BusRsp → State → State}

/-- With nothing outstanding the request is issued, unless its bytes pass offset 0xFF (log 7). -/
theorem transfer_of_idle (hidle : s.rd.buspend = false) : transfer q complete s =
    if q.reg.toNat + q.len.toNat ≤ 256 then .next (issued q s) else .refused .burstPastEnd := by
  simp only [transfer, hidle, fitsSpace, decide_eq_true_eq]
  rfl

/-- While the response is awaited nothing changes. -/
theorem transfer_of_no_response (hp : s.rd.buspend = true) (hr : s.bus.busrsp = none) :
    transfer q complete s = .next s := by
  rw [transfer, if_pos hp, hr]

/-- The response is taken and completes the transfer. -/
theorem transfer_of_response {r : BusRsp} (hp : s.rd.buspend = true) (hr : s.bus.busrsp = some r) :
    transfer q complete s = .next (complete r (takeResponse s)) := by
  rw [transfer, if_pos hp, hr]

variable {reg : Byte} {n : Nat} {op : Byte} {e : Err} {done : List Byte → State → State}

/-- With nothing outstanding a read is issued, unless its bytes pass offset 0xFF. -/
theorem readTransfer_of_idle (hidle : s.rd.buspend = false) : readTransfer reg n op e done s =
    if reg.toNat + (BitVec.ofNat 8 n).toNat ≤ 256 then .next (issued (asksRead s.cfg reg (BitVec.ofNat 8 n)) s)
    else .refused .burstPastEnd :=
  transfer_of_idle hidle

/-- A read of one byte is always issued: it passes no end. -/
theorem readTransfer_one_of_idle (hidle : s.rd.buspend = false) :
    readTransfer reg 1 op e done s = .next (issued (asksRead s.cfg reg 0x01#8) s) :=
  (readTransfer_of_idle hidle).trans (if_pos (of_decide_eq_true (fitsSpace_one reg)))

/-- The response to a read completes it with its bytes, or ends the command with `e`. -/
theorem readTransfer_of_response {r : BusRsp} (hp : s.rd.buspend = true) (hr : s.bus.busrsp = some r) :
    readTransfer reg n op e done s =
      .next (if r.ok = true ∧ r.data.length = n then done r.data (loadXbuf r.data (takeResponse s))
        else raiseRd op e (takeResponse s)) := by
  rw [readTransfer, transfer_of_response hp hr, judgeRead]
  by_cases h : r.ok = true ∧ r.data.length = n
  · rw [if_pos h, if_pos h]
  · rw [if_neg h, if_neg h]

/-- A write of one byte is always issued. -/
theorem writeTransfer_of_idle {v : Byte} {next : BitVec 4} (hidle : s.rd.buspend = false) :
    writeTransfer reg v next s = .next (issued (asksWrite s.cfg reg v) s) :=
  (transfer_of_idle hidle).trans (if_pos (of_decide_eq_true (fitsSpace_one reg)))

/-- The response to a write goes on to step `next`, or ends `INIT` with `ConfigWriteFailed`. -/
theorem writeTransfer_of_response {v : Byte} {next : BitVec 4} {r : BusRsp} (hp : s.rd.buspend = true)
    (hr : s.bus.busrsp = some r) : writeTransfer reg v next s =
      .next (if r.ok = true then setSeq next (takeResponse s) else initFailed 0x03#8 s) :=
  transfer_of_response hp hr

end Halves

/-! ## Every transfer step -/

/-- `u` is `s` with its response taken, and perhaps bytes of it stored. -/
structure Taken (s u : State) : Prop where
  buspend : u.rd.buspend = false
  busreqR : u.rd.busreqR = s.rd.busreqR
  bus : u.bus = { s.bus with busrsp := none }
  sp : u.sp = s.sp
  env : u.env = s.env
  cfg : u.cfg = s.cfg
  seq : u.rd.seq = s.rd.seq
  rsp : u.rd.rsp = s.rd.rsp

theorem taken_takeResponse (s : State) : Taken s (takeResponse s) := ⟨rfl, rfl, rfl, rfl, rfl, rfl, rfl, rfl⟩

theorem Taken.loadXbuf {s u : State} (h : Taken s u) (data : List Byte) : Taken s (loadXbuf data u) :=
  ⟨h.buspend, h.busreqR, h.bus, h.sp, h.env, h.cfg, h.seq, h.rsp⟩

theorem Taken.withCal {s u : State} (h : Taken s u) (cal : Cal) : Taken s (u.withRd { u.rd with cal := cal }) :=
  ⟨h.buspend, h.busreqR, h.bus, h.sp, h.env, h.cfg, h.seq, h.rsp⟩

/-- The completion half of the transfer at `s` leaves `t`: the response is taken and nothing issued, and the unit goes
on to the next step or ends its command with a response. -/
def Completed (s t : State) : Prop :=
  t.rd.buspend = false ∧ t.rd.busreqR = s.rd.busreqR ∧ t.bus = { s.bus with busrsp := none } ∧ t.sp = s.sp ∧
    t.env = s.env ∧ t.cfg = s.cfg ∧
    (t.rd.seq = s.rd.seq + 1#4 ∧ t.rd.rsp = s.rd.rsp ∨ t.rd.seq = 0#4 ∧ t.rd.rsp.valid = true)

theorem Taken.setSeq_completed {s u : State} {k v : BitVec 4} (h : Taken s u) (hs : s.rd.seq = k)
    (hv : v = k + 1#4) : Completed s (setSeq v u) :=
  ⟨h.buspend, h.busreqR, h.bus, h.sp, h.env, h.cfg, .inl ⟨hs ▸ hv, h.rsp⟩⟩

theorem Taken.raiseRd_completed {s u : State} (h : Taken s u) (op : Byte) (e : Err) :
    Completed s (raiseRd op e u) := by
  unfold raiseRd
  split <;> exact ⟨rfl, h.busreqR, h.bus, h.sp, h.env, h.cfg, .inr ⟨rfl, rfl⟩⟩

/-- At `s` the outcome `o` is that of a transfer with request `q` whose completion half completes. -/
def Transfers (q : BusReq) (s : State) (o : StepOut) : Prop :=
  ∃ complete, o = transfer q complete s ∧ ∀ r, Completed s (complete r (takeResponse s))

theorem transfers_readTransfer {s : State} {reg : Byte} {n : Nat} {op : Byte} {e : Err}
    {done : List Byte → State → State}
    (hdone : ∀ data, Completed s (done data (loadXbuf data (takeResponse s)))) :
    Transfers (readReq s.cfg reg n) s (readTransfer reg n op e done s) := by
  refine ⟨_, rfl, fun r => ?_⟩
  show Completed s _
  split
  · exact (taken_takeResponse s).raiseRd_completed op e
  · exact hdone _

theorem transfers_writeTransfer {s : State} {reg v : Byte} {k next : BitVec 4} (hs : s.rd.seq = k)
    (hnext : next = k + 1#4) : Transfers (writeReq s.cfg reg v) s (writeTransfer reg v next s) := by
  refine ⟨_, rfl, fun r => ?_⟩
  show Completed s _
  split
  · exact (taken_takeResponse s).setSeq_completed hs hnext
  · exact (taken_takeResponse s).raiseRd_completed _ _

theorem Taken.checkIdentity_completed {s u : State} (h : Taken s u) (hs : s.rd.seq = 1#4) (b : List Byte) :
    Completed s (checkIdentity b u) := by
  unfold checkIdentity
  split
  · exact h.setSeq_completed hs rfl
  · exact h.raiseRd_completed _ _

/-- Each step with a request transfers it (20_memory.md R70). -/
theorem exec_transfers {s : State} {q : BusReq} (hq : stepRequest s.cfg s.rd.seq = some q) :
    Transfers q s (exec (decodeSeq s.rd.seq) s) := by
  have htaken (data : List Byte) : Taken s (loadXbuf data (takeResponse s)) := (taken_takeResponse s).loadXbuf data
  obtain hs | hs | hs | hs | hs | hs | hs | hs | hs | hs | hs | hs | hs | hs | hs | hs := seq_cases s.rd.seq <;>
    rw [hs] at hq ⊢ <;> cases hq
  · rw [exec_iId]
    exact transfers_readTransfer fun data => (htaken data).checkIdentity_completed hs data
  · rw [exec_iCala]
    exact transfers_readTransfer fun data => ((htaken data).withCal _).setSeq_completed hs rfl
  · rw [exec_iCalb]
    exact transfers_readTransfer fun data => ((htaken data).withCal _).setSeq_completed hs rfl
  · rw [exec_iCalc]
    exact transfers_readTransfer fun data => ((htaken data).withCal _).setSeq_completed hs rfl
  · exact transfers_writeTransfer hs rfl
  · exact transfers_writeTransfer hs rfl
  · exact transfers_writeTransfer hs rfl
  · rw [exec_rData]
    exact transfers_readTransfer fun data => (htaken data).setSeq_completed hs rfl

/-- Settles O8: every step with a request is a transfer, which has these halves. -/
theorem transferHalves : Obligations.TransferHalves := by
  intro s q hq hfits
  obtain ⟨complete, hexec, hcomplete⟩ := exec_transfers hq
  rw [hexec]
  exact ⟨fun hidle => (transfer_of_idle hidle).trans (if_pos hfits), transfer_of_no_response,
    fun r hp hr => ⟨_, transfer_of_response hp hr, hcomplete r⟩⟩

/-! ## The steps of `INIT`, each half's whole next state -/

/-- Settles O9: the one byte read is compared whole. -/
theorem identityStep : Obligations.IdentityStep := by
  refine fun s => ⟨readTransfer_one_of_idle, fun r hp hr => (readTransfer_of_response hp hr).trans ?_⟩
  by_cases hread : r.ok = true ∧ r.data.length = 1
  · obtain ⟨hok, hlen⟩ := hread
    obtain ⟨b, hb⟩ := List.length_eq_one_iff.1 hlen
    have hmatch : r.ok = true ∧ r.data = [s.cfg.idValue] ↔ byteAt r.data 0 = s.cfg.idValue := by
      simp [hok, hb, byteAt]
    rw [if_pos ⟨hok, hlen⟩, checkIdentity]
    exact congrArg _ (if_congr hmatch.symm rfl rfl)
  · have hmatch : ¬ (r.ok = true ∧ r.data = [s.cfg.idValue]) := fun ⟨hok, hdata⟩ => hread ⟨hok, by rw [hdata]; rfl⟩
    rw [if_neg hread, if_neg hmatch]
    rfl

/-- Settles O10: a read of 24 bytes. -/
theorem blockAStep : Obligations.BlockAStep := fun s =>
  ⟨fun hidle => (exec_iCala s).trans (readTransfer_of_idle hidle),
    fun _ hp hr => (exec_iCala s).trans (readTransfer_of_response hp hr)⟩

/-- Settles O11: a read of one byte. -/
theorem blockBStep : Obligations.BlockBStep := fun s =>
  ⟨fun hidle => (exec_iCalb s).trans (readTransfer_one_of_idle hidle),
    fun _ hp hr => (exec_iCalb s).trans (readTransfer_of_response hp hr)⟩

/-- Settles O12: a read of seven bytes. -/
theorem blockCStep : Obligations.BlockCStep := fun s =>
  ⟨fun hidle => (exec_iCalc s).trans (readTransfer_of_idle hidle),
    fun _ hp hr => (exec_iCalc s).trans (readTransfer_of_response hp hr)⟩

/-- Settles O13: the three steps are one write with their own register, value and successor. -/
theorem configurationWrites : Obligations.ConfigurationWrites := by
  intro s i reg v next hstep
  have hexec : exec i s = writeTransfer reg v next s := by
    obtain h | h | h := hstep <;> cases h <;> rfl
  rw [hexec]
  exact ⟨writeTransfer_of_idle, fun r hp hr => writeTransfer_of_response hp hr⟩

/-- Settles O14: the step reads nothing, so it has this one outcome. -/
theorem initDone : Obligations.InitDone := fun _ => rfl

/-- Settles O15: a read of eight bytes, which ends `READ` where it fails. -/
theorem dataStep : Obligations.DataStep := fun s =>
  ⟨fun hidle => (exec_rData s).trans (readTransfer_of_idle hidle),
    fun _ hp hr => (exec_rData s).trans (readTransfer_of_response hp hr)⟩

end Sys2Proof.Machine
end

-- ==== The steps of READ after the burst, and the idle steps (41_sequencer.md R143, R153 to R158) ====
section
/-! PROOFS. Each step with its operands there; the raw values as numbers of their bytes; and the value of a float
pattern, which makes `fdiv` one rounding of an exact quotient. -/

namespace Sys2Proof.Machine
open Sys2Proof.Expect

/-! ## Unpacking the burst -/

/-- A 20-bit sample as the number of its bytes (R190). -/
theorem toNat_sample20 (msb lsb xlsb : Byte) :
    (sample20 msb lsb xlsb).toNat = msb.toNat * 4096 + lsb.toNat * 16 + xlsb.toNat / 16 := by
  have hnibble : (xlsb.extractLsb' 4 4).toNat = xlsb.toNat / 16 := by
    rw [BitVec.extractLsb'_toNat, Nat.shiftRight_eq_div_pow]
    omega
  rw [sample20, toNat_append_eq_add, toNat_append_eq_add, hnibble]
  omega

/-- The number of a 20-bit sample fits. -/
theorem sample20_lt (msb lsb xlsb : Byte) : msb.toNat * 4096 + lsb.toNat * 16 + xlsb.toNat / 16 < 2 ^ 20 :=
  toNat_sample20 msb lsb xlsb ▸ (sample20 msb lsb xlsb).isLt

/-- A word is made of its own number. -/
theorem ofNat_of_toNat_eq {w k : Nat} {x : BitVec w} (h : x.toNat = k) : BitVec.ofNat w k = x := by
  rw [← h, BitVec.ofNat_toNat, BitVec.setWidth_eq]

/-- Settles O16: the burst is unpacked, and each raw value is the number of its bytes. -/
theorem unpackStep : Obligations.UnpackStep := by
  refine ⟨fun s d0 d1 d2 d3 d4 d5 d6 d7 hx => ?_, sample20_lt⟩
  have hH : (d6 ++ d7).toNat = d6.toNat * 256 + d7.toNat := by
    rw [toNat_append_eq_add, Nat.mul_comm]
    rfl
  rw [exec_rUnpk_of_burst (d := [d0, d1, d2, d3, d4, d5, d6, d7]) rfl hx, ofNat_of_toNat_eq (toNat_sample20 d0 d1 d2),
    ofNat_of_toNat_eq (toNat_sample20 d3 d4 d5), ofNat_of_toNat_eq hH]
  rfl

/-! ## The compensation steps, with their operands there -/

/-- Settles O17: the four operands are read, and `CompT` is applied to them. -/
theorem temperatureStep : Obligations.TemperatureStep := by
  refine ⟨fun s t1 t2 t3 adcT h1 h2 h3 hT => ?_, by decide⟩
  have hops : tempOperands s = .ok (t1, t2, t3, adcT) := by
    rw [tempOperands, h1, h2, h3, hT]
    rfl
  rw [exec, execRCmpt, hops]
  rfl

/-- Settles O18: the eleven operands are read, and `CompP` is applied to them. -/
theorem pressureStep : Obligations.PressureStep := by
  refine ⟨fun s x tfine adcP h1 h2 h3 h4 h5 h6 h7 h8 h9 hfine hP => ?_, by decide⟩
  have hops : presOperands s = .ok (x, tfine, adcP) := by
    rw [presOperands, h1, h2, h3, h4, h5, h6, h7, h8, h9, hfine, hP]
    rfl
  rw [exec, execRCmpp, hops]
  rfl

/-- Settles O19: the eight operands are read, and `CompH` is applied to them. -/
theorem humidityStep : Obligations.HumidityStep := by
  refine ⟨fun s x tfine adcH h1 h2 h3 h4 h5 h6 hfine hH => ?_, by decide⟩
  have hops : humOperands s = .ok (x, tfine, adcH) := by
    rw [humOperands, h1, h2, h3, h4, h5, h6, hfine, hH]
    rfl
  rw [exec, execRCmph, hops]
  rfl

/-! ## Scaling -/

/-- The sign that `i2f` rounds with is that of the integer. -/
theorem i2fSigned_eq (c : Config) (v : Word32) :
    i2fSigned c v = roundF c (decide (v.toInt < 0)) v.toInt.natAbs 1 := by
  rw [i2fSigned, BitVec.msb_eq_toInt]

/-- The default format reads a pattern with `valueSpec`. -/
theorem valueF_of_spec {c : Config} (hc : c.fmt = .spec) (p : Word32) : valueF c p = valueSpec p := by
  rw [valueF, hc]

/-- A pattern's bits below the sign are its exponent field over its fraction field. -/
theorem mod_sign_eq_fields (n : Nat) : n % 2 ^ 31 = n / 8388608 % 256 * 2 ^ 23 + n % 8388608 := by omega

/-- The value read from a pattern: its sign, a positive denominator, and the magnitude R12 gives it. -/
theorem valueSpec_spec (p : Word32) :
    (valueSpec p).1 = p.msb ∧ 0 < (valueSpec p).2.2 ∧
      ((valueSpec p).2.1 : ℚ) / (valueSpec p).2.2 = magnitude (p.toNat % 2 ^ 31) := by
  have hf : p.toNat % 8388608 < 2 ^ 23 := Nat.mod_lt _ (by decide)
  rw [mod_sign_eq_fields, valueSpec]
  generalize p.toNat / 8388608 % 256 = e
  generalize p.toNat % 8388608 = f at hf
  cases e with
  | zero =>
    rw [Nat.zero_mul, Nat.zero_add, magnitude_of_lt hf, if_pos rfl]
    exact ⟨rfl, Nat.two_pow_pos 149, by norm_num⟩
  | succ e =>
    rw [magnitude_normal e hf, if_neg (Nat.succ_ne_zero e)]
    by_cases he : e + 1 < 150
    · rw [if_pos he]
      refine ⟨rfl, by positivity, ?_⟩
      have hpow : (2 : ℚ) ^ 149 = 2 ^ e * 2 ^ (150 - (e + 1)) := by rw [← pow_add]; congr 1; omega
      rw [hpow]
      push_cast
      field_simp
    · rw [if_neg he]
      refine ⟨rfl, Nat.one_pos, ?_⟩
      have hpow : (2 : ℚ) ^ e = 2 ^ (e + 1 - 150) * 2 ^ 149 := by rw [← pow_add]; congr 1; omega
      rw [hpow]
      push_cast
      field_simp

/-- A quotient by a positive integer is rounded once, from the exact quotient. -/
theorem fdiv_of_spec {c : Config} (hc : c.fmt = .spec) (p : Word32) (k : Nat) :
    fdiv c p k = roundF c p.msb (valueSpec p).2.1 ((valueSpec p).2.2 * k) := by
  rw [fdiv, valueF_of_spec hc, (valueSpec_spec p).1]

/-- Rounding depends on nothing but the format. -/
theorem roundF_of_fmt_eq {c c' : Config} (h : c.fmt = c'.fmt) (neg : Bool) (n d : Nat) :
    roundF c neg n d = roundF c' neg n d := by
  rw [roundF, roundF, h]

/-- `fdiv` depends on nothing but the format. -/
theorem fdiv_of_fmt_eq {c c' : Config} (h : c.fmt = c'.fmt) (p : Word32) (k : Nat) : fdiv c p k = fdiv c' p k := by
  rw [fdiv, fdiv, valueF, valueF, h, roundF_of_fmt_eq h]

/-- Settles O20: the step, then `i2f`, `val_F` and `fdiv` each as one exact value rounded once. -/
theorem scaleStep : Obligations.ScaleStep := by
  refine ⟨fun s tint pint hint => exec_rCvt_of_operands, fun c v => ⟨i2fSigned_eq c v, rfl⟩, fun c p hc _ => ?_,
    fun c hc => ?_⟩
  · obtain ⟨hsign, hden, hvalue⟩ := valueSpec_spec p
    rw [valueF_of_spec hc]
    refine ⟨hsign, hden, hvalue, fun k hk => ⟨_, _, Nat.mul_pos hden hk, ?_, fdiv_of_spec hc p k⟩⟩
    rw [Nat.cast_mul, ← div_div, hvalue]
  · have hfmt : c.fmt = Config.default.fmt := hc
    simp only [fdiv_of_fmt_eq hfmt, i2fSigned, i2fUnsigned, roundF_of_fmt_eq hfmt]
    decide

/-! ## The end of `READ`, and the idle steps -/

/-- Settles O21: the six results are read, and the response is written whole. -/
theorem readDone : Obligations.ReadDone := fun _ _ _ _ _ _ _ htf hpf hhf hT hP hH =>
  exec_rDone_of_operands hT hP hH htf hpf hhf

/-- Settles O22: the idle steps have one outcome each, and a port is ready just at step 0. -/
theorem idleSteps : Obligations.IdleSteps := fun s => ⟨rfl, rfl, (cmdReady_iff s).2, (pcmdReady_iff s).2⟩

end Sys2Proof.Machine
end

-- ==== The calibration decode (42_calibration_decode.md R180 to R184) ====
section
/-! PROOFS. The fields of the default layout as numbers of their bytes; and the encoding that takes the fields back to
the block's bytes, which makes each block's decode a bijection. -/

namespace Sys2Proof.Machine

/-! ## The fields as numbers of their bytes -/

/-- The number of a 16-bit field (R180). -/
theorem toNat_le16 (b : List Byte) (k : Nat) :
    (le16 b k).toNat = (byteAt b (k + 1)).toNat * 256 + (byteAt b k).toNat := by
  rw [le16, toNat_append_eq_add, Nat.mul_comm]
  rfl

/-- The low nibble of a byte as a number. -/
theorem toNat_low_nibble (x : Byte) : (x.extractLsb' 0 4).toNat = x.toNat % 16 := by
  rw [BitVec.extractLsb'_toNat, Nat.shiftRight_zero]

/-- The high nibble of a byte as a number. -/
theorem toNat_high_nibble (x : Byte) : (x.extractLsb' 4 4).toNat = x.toNat / 16 := by
  rw [BitVec.extractLsb'_toNat, Nat.shiftRight_eq_div_pow]
  omega

/-- A byte above a nibble, sign-extended from bit 11: the byte carries the sign (R183). -/
theorem toInt_signExtend_byte_append_nibble (hi : Byte) (lo : BitVec 4) :
    ((hi ++ lo).signExtend 16).toInt = hi.toInt * 16 + (lo.toNat : Int) := by
  rw [BitVec.toInt_signExtend_of_le (by decide), BitVec.toInt_append, if_neg (by decide), Int.mul_comm]
  rfl

theorem decA_of_spec {c : Config} (h : c.decA = .spec) : decA c = decASpec := by
  funext a; rw [decA, h]

theorem decB_of_spec {c : Config} (h : c.decB = .spec) : decB c = decBSpec := by
  funext b; rw [decB, h]

theorem decC_of_spec {c : Config} (h : c.decC = .spec) : decC c = decCSpec := by
  funext b; rw [decC, h]

/-- `H4` of the default layout (R183). -/
theorem toInt_decCSpec_h4 (b : List Byte) :
    (decCSpec b).h4.toInt = (byteAt b 3).toInt * 16 + ((byteAt b 4).toNat % 16 : Nat) := by
  rw [← toNat_low_nibble, ← toInt_signExtend_byte_append_nibble]
  rfl

/-- `H5` of the default layout (R183). -/
theorem toInt_decCSpec_h5 (b : List Byte) :
    (decCSpec b).h5.toInt = (byteAt b 5).toInt * 16 + ((byteAt b 4).toNat / 16 : Nat) := by
  rw [← toNat_high_nibble, ← toInt_signExtend_byte_append_nibble]
  rfl

/-- Settles O42: each field by its own lemma, under the default layouts. -/
theorem calibrationFieldValues : Obligations.CalibrationFieldValues := by
  refine ⟨toNat_le16, fun c a h => ?_, fun c b h => ?_, fun c b h => ?_, fun c h => ?_⟩
  · rw [decA_of_spec h, decASpec]
  · rw [decB_of_spec h, decBSpec]
  · rw [decC_of_spec h]
    exact ⟨rfl, rfl, toInt_decCSpec_h4 b, toInt_decCSpec_h5 b, rfl⟩
  · rw [decC_of_spec h]
    decide

/-! ## From the fields back to the bytes -/

/-- A 16-bit field as its two bytes, low byte first. -/
def le16Bytes (v : BitVec 16) : List Byte := [v.extractLsb' 0 8, v.extractLsb' 8 8]

/-- The fields of block A as its 24 bytes (R181). -/
def encA (x : BlockA) : List Byte :=
  [x.t1, x.t2, x.t3, x.p1, x.p2, x.p3, x.p4, x.p5, x.p6, x.p7, x.p8, x.p9].flatMap le16Bytes

/-- The 7 bytes of block C from its fields, with `h4` and `h5` as 12 bits: their low nibbles share the fifth byte
(R183). -/
def blockCBytes (h2 : BitVec 16) (h3 : Byte) (h4 h5 : BitVec 12) (h6 : Byte) : List Byte :=
  le16Bytes h2 ++ [h3, h4.extractLsb' 4 8, h5.extractLsb' 0 4 ++ h4.extractLsb' 0 4, h5.extractLsb' 4 8, h6]

/-- The fields of block C as its 7 bytes, `H4` and `H5` by their low 12 bits. -/
def encC (x : BlockC) : List Byte :=
  blockCBytes x.h2 x.h3 (x.h4.signExtend 12) (x.h5.signExtend 12) x.h6

/-- Cutting a word in two and putting the parts back together. -/
theorem extractLsb'_append_extractLsb' {m n : Nat} (v : BitVec (m + n)) :
    v.extractLsb' n m ++ v.extractLsb' 0 n = v := by
  rw [BitVec.extractLsb'_append_extractLsb'_eq_extractLsb' (Nat.zero_add n).symm, BitVec.extractLsb'_eq_self]

/-- The bytes of a field give the field. -/
theorem le16_le16Bytes_append (v : BitVec 16) (b : List Byte) : le16 (le16Bytes v ++ b) 0 = v :=
  extractLsb'_append_extractLsb' (m := 8) (n := 8) v

/-- The field at two bytes gives the bytes. -/
theorem le16Bytes_le16 (x y : Byte) (b : List Byte) : le16Bytes (le16 (x :: y :: b) 0) = [x, y] :=
  congrArg₂ (fun lo hi => [lo, hi]) (BitVec.extractLsb'_append_eq_right (a := y) (b := x))
    (BitVec.extractLsb'_append_eq_left (a := y) (b := x))

/-- The `k`-th of several fields stands at byte `2 * k`, and behind the last field every byte reads as zero. -/
theorem le16_flatMap_le16Bytes (vs : List (BitVec 16)) (k : Nat) :
    le16 (vs.flatMap le16Bytes) (2 * k) = vs.getD k 0#16 := by
  induction vs generalizing k with
  | nil => simp [le16, byteAt]
  | cons v vs ih =>
    cases k with
    | zero => exact le16_le16Bytes_append v _
    | succ k => exact ih k

/-- A string of an even number of bytes is the bytes of its fields. -/
theorem flatMap_le16Bytes_le16 (n : Nat) (a : List Byte) (ha : a.length = 2 * n) :
    (List.range n).flatMap (fun k => le16Bytes (le16 a (2 * k))) = a := by
  induction n generalizing a with
  | zero => exact (List.length_eq_zero_iff.1 ha).symm
  | succ n ih =>
    match a, ha with
    | x :: y :: a, ha =>
      have htail : a.length = 2 * n := by simp only [List.length_cons] at ha; omega
      rw [List.range_succ_eq_map, List.flatMap_cons, List.flatMap_map]
      exact congrArg₂ (· ++ ·) (le16Bytes_le16 x y a) (ih a htail)

theorem length_encA (x : BlockA) : (encA x).length = 24 := rfl

theorem length_encC (x : BlockC) : (encC x).length = 7 := rfl

/-- Block A decodes to the fields it was made of. -/
theorem decASpec_encA (x : BlockA) : decASpec (encA x) = x := by
  have hfield := le16_flatMap_le16Bytes [x.t1, x.t2, x.t3, x.p1, x.p2, x.p3, x.p4, x.p5, x.p6, x.p7, x.p8, x.p9]
  rw [decASpec, encA, hfield 0, hfield 1, hfield 2, hfield 3, hfield 4, hfield 5, hfield 6, hfield 7, hfield 8,
    hfield 9, hfield 10, hfield 11]
  rfl

/-- The fields of a block A give its bytes. -/
theorem encA_decASpec {a : List Byte} (ha : a.length = 24) : encA (decASpec a) = a :=
  flatMap_le16Bytes_le16 12 a ha

/-- A word comes back from its sign extension. -/
theorem signExtend_signExtend_of_le {w v : Nat} (h : w ≤ v) (x : BitVec w) : (x.signExtend v).signExtend w = x :=
  BitVec.eq_of_toInt_eq <| by
    rw [BitVec.toInt_signExtend_eq_toInt_bmod_of_le _ h, BitVec.toInt_signExtend_of_le h, BitVec.toInt_bmod_cancel]

/-- A 16-bit word whose value fits in 12 bits comes back from its low 12 bits. -/
theorem signExtend_signExtend_of_mem_range {x : BitVec 16} (hlo : -2048 ≤ x.toInt) (hhi : x.toInt ≤ 2047) :
    (x.signExtend 12).signExtend 16 = x :=
  BitVec.eq_of_toInt_eq <| by
    rw [BitVec.toInt_signExtend_of_le (by decide), BitVec.toInt_signExtend_eq_toInt_bmod_of_le _ (by decide),
      Int.bmod_eq_of_le (by omega) (by omega)]

/-- Sign extension from 12 bits stays in the range of 12 bits. -/
theorem toInt_signExtend_mem_range (v : BitVec 12) :
    -2048 ≤ (v.signExtend 16).toInt ∧ (v.signExtend 16).toInt ≤ 2047 := by
  rw [BitVec.toInt_signExtend_of_le (by decide)]
  exact ⟨v.le_toInt, Int.le_of_lt_add_one v.toInt_lt⟩

section BlockCBytes
variable (h2 : BitVec 16) (h3 : Byte) (h4 h5 : BitVec 12) (h6 : Byte)

/-- The 12 bits of `H4` come back from the bytes. -/
theorem h4Bits_blockCBytes : h4Bits (blockCBytes h2 h3 h4 h5 h6) = h4 :=
  calc h4Bits (blockCBytes h2 h3 h4 h5 h6)
    _ = h4.extractLsb' 4 8 ++ (h5.extractLsb' 0 4 ++ h4.extractLsb' 0 4 : Byte).extractLsb' 0 4 := rfl
    _ = h4.extractLsb' 4 8 ++ h4.extractLsb' 0 4 := congrArg _ BitVec.extractLsb'_append_eq_right
    _ = h4 := extractLsb'_append_extractLsb' (m := 8) (n := 4) h4

/-- The 12 bits of `H5` come back from the bytes. -/
theorem h5Bits_blockCBytes : h5Bits (blockCBytes h2 h3 h4 h5 h6) = h5 :=
  calc h5Bits (blockCBytes h2 h3 h4 h5 h6)
    _ = h5.extractLsb' 4 8 ++ (h5.extractLsb' 0 4 ++ h4.extractLsb' 0 4 : Byte).extractLsb' 4 4 := rfl
    _ = h5.extractLsb' 4 8 ++ h5.extractLsb' 0 4 := congrArg _ BitVec.extractLsb'_append_eq_left
    _ = h5 := extractLsb'_append_extractLsb' (m := 8) (n := 4) h5

end BlockCBytes

/-- The fields of 7 bytes give the bytes. -/
theorem blockCBytes_fields {b : List Byte} (hb : b.length = 7) :
    blockCBytes (le16 b 0) (byteAt b 2) (h4Bits b) (h5Bits b) (byteAt b 6) = b := by
  match b, hb with
  | [b0, b1, b2, b3, b4, b5, b6], _ =>
    have h4hi : (b3 ++ b4.extractLsb' 0 4).extractLsb' 4 8 = b3 := BitVec.extractLsb'_append_eq_left
    have h4lo : (b3 ++ b4.extractLsb' 0 4).extractLsb' 0 4 = b4.extractLsb' 0 4 := BitVec.extractLsb'_append_eq_right
    have h5hi : (b5 ++ b4.extractLsb' 4 4).extractLsb' 4 8 = b5 := BitVec.extractLsb'_append_eq_left
    have h5lo : (b5 ++ b4.extractLsb' 4 4).extractLsb' 0 4 = b4.extractLsb' 4 4 := BitVec.extractLsb'_append_eq_right
    have hfifth : b4.extractLsb' 4 4 ++ b4.extractLsb' 0 4 = b4 := extractLsb'_append_extractLsb' (m := 4) (n := 4) b4
    calc blockCBytes _ _ _ _ _
      _ = le16Bytes (le16 [b0, b1, b2, b3, b4, b5, b6] 0) ++
          [b2, (b3 ++ b4.extractLsb' 0 4).extractLsb' 4 8,
            (b5 ++ b4.extractLsb' 4 4).extractLsb' 0 4 ++ (b3 ++ b4.extractLsb' 0 4).extractLsb' 0 4,
            (b5 ++ b4.extractLsb' 4 4).extractLsb' 4 8, b6] := rfl
      _ = [b0, b1, b2, b3, b4, b5, b6] := by
        rw [le16Bytes_le16, h4hi, h4lo, h5hi, h5lo, hfifth]
        rfl

/-- Block C decodes to the fields it was made of, where `H4` and `H5` come back from their low 12 bits. -/
theorem decCSpec_encC {x : BlockC} (h4 : (x.h4.signExtend 12).signExtend 16 = x.h4)
    (h5 : (x.h5.signExtend 12).signExtend 16 = x.h5) : decCSpec (encC x) = x := by
  have hh2 : le16 (encC x) 0 = x.h2 := le16_le16Bytes_append x.h2 _
  rw [decCSpec, hh2, encC, h4Bits_blockCBytes, h5Bits_blockCBytes, h4, h5]
  rfl

/-- The fields of a block C give its bytes. -/
theorem encC_decCSpec {b : List Byte} (hb : b.length = 7) : encC (decCSpec b) = b := by
  rw [encC, decCSpec, signExtend_signExtend_of_le (by decide), signExtend_signExtend_of_le (by decide),
    blockCBytes_fields hb]

/-! ## The bijection -/

/-- A decoding with an encoding back takes each value it comes back to from exactly one string of the length. -/
theorem existsUnique_of_encode {α : Type} {dec : List Byte → α} {enc : α → List Byte} {n : Nat}
    (hback : ∀ b, b.length = n → enc (dec b) = b) {x : α} (hlen : (enc x).length = n) (hx : dec (enc x) = x) :
    ∃! b : List Byte, b.length = n ∧ dec b = x :=
  ⟨enc x, ⟨hlen, hx⟩, fun b ⟨hb, hdec⟩ => by rw [← hback b hb, hdec]⟩

/-- Settles O43: each block's decode has its encoding as inverse. -/
theorem decodeBijection : Obligations.DecodeBijection := by
  intro c hA hB hC
  rw [decA_of_spec hA, decB_of_spec hB, decC_of_spec hC]
  refine ⟨fun x => ?_, fun x => ?_, fun b _ => ?_, fun x h4lo h4hi h5lo h5hi => ?_⟩
  · exact existsUnique_of_encode (fun _ => encA_decASpec) (length_encA x) (decASpec_encA x)
  · refine existsUnique_of_encode (enc := fun h1 => [h1]) (fun b hb => ?_) rfl rfl
    obtain ⟨h1, rfl⟩ := List.length_eq_one_iff.1 hb
    rfl
  · obtain ⟨h4lo, h4hi⟩ := toInt_signExtend_mem_range (h4Bits b)
    obtain ⟨h5lo, h5hi⟩ := toInt_signExtend_mem_range (h5Bits b)
    exact ⟨h4lo, h4hi, h5lo, h5hi⟩
  · exact existsUnique_of_encode (fun _ => encC_decCSpec) (length_encC x)
      (decCSpec_encC (signExtend_signExtend_of_mem_range h4lo h4hi) (signExtend_signExtend_of_mem_range h5lo h5hi))

end Sys2Proof.Machine
end

-- ==== The compensation formulas over the integers (43_compensation.md R201 to R210) ====
section
/-! PROOFS. Each intermediate word of the default bodies as the integer that the rule's lines give, every wrap written
out; then the bounds, the zero denominator, and the exact scaling of the humidity. -/

namespace Sys2Proof.Machine
open Sys2Proof.Expect

/-! ## Reading the operands (R202, R205, R208) -/

/-- A field extended by zeros to a larger width is not negative: its value is the unsigned one. -/
theorem toInt_setWidth_of_lt {k w : Nat} (hk : k < w) (v : BitVec k) : (v.setWidth w).toInt = v.toNat := by
  have hv : (v.setWidth w).toNat = v.toNat := BitVec.toNat_setWidth_of_le hk.le
  have hpow : 2 ^ (k + 1) ≤ 2 ^ w := Nat.pow_le_pow_right (by decide) hk
  rw [BitVec.toInt_eq_toNat_of_lt (by rw [hv]; omega), hv]

/-- Zero extension to 32 bits keeps the value of an unsigned field. -/
@[simp] theorem toInt_zext32 {k : Nat} (hk : k < 32) (v : BitVec k) : (zext32 v).toInt = v.toNat :=
  toInt_setWidth_of_lt hk v

/-- Zero extension to 64 bits keeps the value of an unsigned field. -/
@[simp] theorem toInt_zext64 {k : Nat} (hk : k < 64) (v : BitVec k) : (zext64 v).toInt = v.toNat :=
  toInt_setWidth_of_lt hk v

/-- Sign extension to 32 bits keeps the value of a signed field. -/
@[simp] theorem toInt_sext32 {k : Nat} (hk : k ≤ 32) (v : BitVec k) : (sext32 v).toInt = v.toInt :=
  BitVec.toInt_signExtend_of_le hk

/-- Sign extension to 64 bits keeps the value of a signed field. -/
@[simp] theorem toInt_sext64 {k : Nat} (hk : k ≤ 64) (v : BitVec k) : (sext64 v).toInt = v.toInt :=
  BitVec.toInt_signExtend_of_le hk

/-- An integer in range is its own wrap. -/
theorem wrapS32_of_mem_range {z : Int} (hlo : -2 ^ 31 ≤ z) (hhi : z < 2 ^ 31) : wrapS32 z = z :=
  Int.bmod_eq_of_le hlo hhi

/-- A 32-bit value shifted right by `k` keeps `31 - k` bits and its sign. -/
theorem toInt_asr32_mem_range (a : Word32) {k : Nat} (hk : k ≤ 31) :
    -2 ^ (31 - k) ≤ (asr32 a k).toInt ∧ (asr32 a k).toInt < 2 ^ (31 - k) := by
  have hpow : (2 : Int) ^ 31 = 2 ^ (31 - k) * 2 ^ k := by rw [← pow_add, Nat.sub_add_cancel hk]
  have hpos : (0 : Int) < 2 ^ k := by positivity
  have hlo : -2 ^ 31 ≤ a.toInt := BitVec.le_toInt a
  have hhi : a.toInt < 2 ^ 31 := BitVec.toInt_lt
  rw [toInt_asr32, Int.le_ediv_iff_mul_le hpos, Int.ediv_lt_iff_lt_mul hpos, Int.neg_mul, ← hpow]
  exact ⟨hlo, hhi⟩

/-! ## Temperature (R203, R204) -/

/-- The lines of R203 that form `var1`. -/
theorem toInt_tempVar1 (t1 t2 : BitVec 16) (adcT : BitVec 20) : (tempVar1 t1 t2 adcT).toInt =
    wrapS32 (wrapS32 ((adcT.toNat : Int) / 2 ^ 3 - wrapS32 (t1.toNat * 2)) * t2.toInt) / 2 ^ 11 := by
  simp [tempVar1]

/-- The lines of R203 that form `var2`. -/
theorem toInt_tempVar2 (t1 t3 : BitVec 16) (adcT : BitVec 20) :
    let d := wrapS32 ((adcT.toNat : Int) / 2 ^ 4 - t1.toNat)
    (tempVar2 t1 t3 adcT).toInt = wrapS32 (wrapS32 (d * d) / 2 ^ 12 * t3.toInt) / 2 ^ 14 := by
  simp [tempVar2]

/-- The last line of R203. -/
theorem toInt_tempScale (tfine : Word32) :
    (tempScale tfine).toInt = wrapS32 (wrapS32 (tfine.toInt * 5) + 128) / 2 ^ 8 := by
  simp [tempScale]

/-- `TFINE` is the wrapped sum of the two corrections. -/
theorem toInt_compTSpec_fst (t1 t2 t3 : BitVec 16) (adcT : BitVec 20) : (compTSpec t1 t2 t3 adcT).1.toInt =
    wrapS32 ((tempVar1 t1 t2 adcT).toInt + (tempVar2 t1 t3 adcT).toInt) :=
  toInt_add32 _ _

/-- `TINT` is `TFINE` scaled. -/
theorem toInt_compTSpec_snd (t1 t2 t3 : BitVec 16) (adcT : BitVec 20) : (compTSpec t1 t2 t3 adcT).2.toInt =
    wrapS32 (wrapS32 ((compTSpec t1 t2 t3 adcT).1.toInt * 5) + 128) / 2 ^ 8 :=
  toInt_tempScale _

theorem compT_of_spec {c : Config} (hc : c.compT = .spec) : compT c = compTSpec := by
  funext t1 t2 t3 adcT; rw [compT, hc]

/-- Settles O35: the sum of the two corrections, and its scaling. -/
theorem temperatureFormula : Obligations.TemperatureFormula := by
  intro c t1 t2 t3 adcT hc T1 adc a var1 d var2 tfine
  have hfine : (compT c t1 t2 t3 adcT).1.toInt = tfine := by
    rw [compT_of_spec hc, toInt_compTSpec_fst, toInt_tempVar1, toInt_tempVar2]
  refine ⟨hfine, ?_⟩
  rw [← hfine, compT_of_spec hc, toInt_compTSpec_snd]

/-- `var1` is a 32-bit value shifted right by 11 (R204). -/
theorem toInt_tempVar1_mem_range (t1 t2 : BitVec 16) (adcT : BitVec 20) :
    -2 ^ 20 ≤ (tempVar1 t1 t2 adcT).toInt ∧ (tempVar1 t1 t2 adcT).toInt < 2 ^ 20 :=
  toInt_asr32_mem_range _ (k := 11) (by decide)

/-- `var2` is a 32-bit value shifted right by 14 (R204). -/
theorem toInt_tempVar2_mem_range (t1 t3 : BitVec 16) (adcT : BitVec 20) :
    -2 ^ 17 ≤ (tempVar2 t1 t3 adcT).toInt ∧ (tempVar2 t1 t3 adcT).toInt < 2 ^ 17 :=
  toInt_asr32_mem_range _ (k := 14) (by decide)

/-- Settles O38: both corrections are shifted 32-bit values, so their sum and its scaling stay in range unwrapped. -/
theorem temperatureBounds : Obligations.TemperatureBounds := by
  intro t1 t2 t3 adcT var1 var2 tfine tint
  have hvar1 : -2 ^ 20 ≤ var1 ∧ var1 < 2 ^ 20 := toInt_tempVar1_mem_range t1 t2 adcT
  have hvar2 : -2 ^ 17 ≤ var2 ∧ var2 < 2 ^ 17 := toInt_tempVar2_mem_range t1 t3 adcT
  have hfine : tfine = var1 + var2 :=
    (toInt_compTSpec_fst t1 t2 t3 adcT).trans (wrapS32_of_mem_range (by omega) (by omega))
  have htint : tint = (tfine * 5 + 128) / 2 ^ 8 := by
    refine (toInt_compTSpec_snd t1 t2 t3 adcT).trans ?_
    rw [wrapS32_of_mem_range (z := tfine * 5) (by omega) (by omega), wrapS32_of_mem_range (by omega) (by omega)]
  clear_value var1 var2 tfine tint
  omega

/-! ## Pressure (R206) -/

/-- The lines of R206 that form `v2`. -/
theorem toInt_presV2 (x : PresCal) (tfine : Word32) :
    let v1 := wrapS64 (tfine.toInt - 128000)
    (presV2 x tfine).toInt = wrapS64 (wrapS64 (wrapS64 (wrapS64 (v1 * v1) * x.p6.toInt) +
      wrapS64 (wrapS64 (v1 * x.p5.toInt) * 2 ^ 17)) + wrapS64 (x.p4.toInt * 2 ^ 35)) := by
  simp [presV2]

/-- The lines of R206 that form `den`. -/
theorem toInt_presDen (x : PresCal) (tfine : Word32) :
    let v1 := wrapS64 (tfine.toInt - 128000)
    let w := wrapS64 (wrapS64 (wrapS64 (v1 * v1) * x.p3.toInt) / 2 ^ 8 +
      wrapS64 (wrapS64 (v1 * x.p2.toInt) * 2 ^ 12))
    (presDen x tfine).toInt = wrapS64 (wrapS64 (2 ^ 47 + w) * x.p1.toNat) / 2 ^ 33 := by
  simp [presDen]

/-- The lines of R206 that form `num`. -/
theorem toInt_presNum (x : PresCal) (tfine : Word32) (adcP : BitVec 20) : (presNum x tfine adcP).toInt =
    wrapS64 (wrapS64 (wrapS64 (wrapS64 (1048576 - adcP.toNat) * 2 ^ 31) - (presV2 x tfine).toInt) * 3125) := by
  simp [presNum]

/-- The lines of R206 from the quotient on. -/
theorem toNat_presFinish (x : PresCal) (quot : Word64) :
    let q := quot.toInt
    let w1 := wrapS64 (wrapS64 (x.p9.toInt * (q / 2 ^ 13)) * (q / 2 ^ 13)) / 2 ^ 25
    let w2 := wrapS64 (x.p8.toInt * q) / 2 ^ 19
    ((presFinish x quot).toNat : Int) =
      wrapS64 (wrapS64 (wrapS64 (q + w1) + w2) / 2 ^ 8 + wrapS64 (x.p7.toInt * 2 ^ 4)) % 2 ^ 32 := by
  simp [presFinish, toNat_wrapU32]

theorem compP_of_spec {c : Config} (hc : c.compP = .spec) : compP c = compPSpec := by
  funext x tfine adcP; rw [compP, hc]

theorem compPSpec_of_den_eq_zero {x : PresCal} {tfine : Word32} (h : presDen x tfine = 0#64) (adcP : BitVec 20) :
    compPSpec x tfine adcP = 0#32 := if_pos h

theorem compPSpec_of_den_ne_zero {x : PresCal} {tfine : Word32} (h : presDen x tfine ≠ 0#64) (adcP : BitVec 20) :
    compPSpec x tfine adcP = presFinish x (sdiv64 (presNum x tfine adcP) (presDen x tfine)) := if_neg h

/-- Settles O36: the guard, and behind it the numerator, the denominator and the quotient's lines. -/
theorem pressureFormula : Obligations.PressureFormula := by
  intro c x tfine adcP hc v1 v2 v2' v2'' w den num q w1 w2 p
  have hden : (presDen x tfine).toInt = den := toInt_presDen x tfine
  have hzero : presDen x tfine = 0#64 ↔ den = 0 := by rw [← hden, ← BitVec.toInt_inj]; rfl
  rw [compP_of_spec hc]
  by_cases h : presDen x tfine = 0#64
  · rw [if_pos (hzero.1 h), compPSpec_of_den_eq_zero h]
    rfl
  · have hq : (sdiv64 (presNum x tfine adcP) (presDen x tfine)).toInt = q := by
      rw [toInt_sdiv64, hden, toInt_presNum, toInt_presV2]
    rw [if_neg (mt hzero.2 h), compPSpec_of_den_ne_zero h, toNat_presFinish, hq]

/-- The denominator vanishes with `P1`, its last factor. -/
theorem presDen_of_p1_eq_zero {x : PresCal} (h : x.p1 = 0#16) (tfine : Word32) : presDen x tfine = 0#64 := by
  rw [← BitVec.toInt_inj, toInt_presDen, h]
  simp [wrapS64]

/-- The denominator vanishes where `v1 * v1 * P3 / 2^8` is `-2^47`: at `v1 = 2^20` and `P3 = -2^15` (V-P3). -/
theorem presDen_at_cancelling_tfine {x : PresCal} (h2 : x.p2 = 0#16) (h3 : x.p3 = 0x8000#16) :
    presDen x 1176576#32 = 0#64 := by
  rw [← BitVec.toInt_inj, toInt_presDen, h2, h3]
  change wrapS64 (0 * x.p1.toNat) / 2 ^ 33 = 0
  rw [Int.zero_mul]
  rfl

/-- Settles O40: the guard of every admissible `CompP`, and the two ways to a zero denominator. -/
theorem pressureZeroDenominator : Obligations.PressureZeroDenominator := by
  refine ⟨fun c x tfine adcP => ⟨fun hc h => ?_, fun k hc h => ?_⟩, fun x tfine h => presDen_of_p1_eq_zero h tfine,
    fun x => presDen_at_cancelling_tfine⟩
  · rw [compP_of_spec hc, compPSpec_of_den_eq_zero h]
  · simp only [compP, hc, if_pos h]

/-! ## Humidity (R209) -/

/-- The lines of R209 that form `a`. -/
theorem toInt_humA (x : HumCal) (tfine : Word32) (adcH : BitVec 16) :
    let v := wrapS32 (tfine.toInt - 76800)
    let a := wrapS32 (wrapS32 (wrapS32 ((adcH.toNat : Int) * 2 ^ 14) - wrapS32 (x.h4.toInt * 2 ^ 20)) -
      wrapS32 (x.h5.toInt * v))
    (humA x tfine adcH).toInt = wrapS32 (a + 16384) / 2 ^ 15 := by
  simp [humA]

/-- The lines of R209 that form `b`. -/
theorem toInt_humB (x : HumCal) (tfine : Word32) :
    let v := wrapS32 (tfine.toInt - 76800)
    let b1 := wrapS32 (v * x.h6.toInt) / 2 ^ 10
    let b2 := wrapS32 (wrapS32 (v * x.h3.toNat) / 2 ^ 11 + 32768)
    let b := wrapS32 (wrapS32 (b1 * b2) / 2 ^ 10 + 2097152)
    (humB x tfine).toInt = wrapS32 (wrapS32 (b * x.h2.toInt) + 8192) / 2 ^ 14 := by
  simp [humB]

/-- The lines of R209 between the product of `a` and `b` and the clamp. -/
theorem toInt_humPre (x : HumCal) (tfine : Word32) (adcH : BitVec 16) :
    let p := wrapS32 ((humA x tfine adcH).toInt * (humB x tfine).toInt)
    let y := p / 2 ^ 15
    let y2 := wrapS32 (y * y) / 2 ^ 7
    (humPre x tfine adcH).toInt = wrapS32 (p - wrapS32 (y2 * x.h1.toNat) / 2 ^ 4) := by
  simp [humPre]

/-- The clamp and the last shift of R209; the clamped value is not negative, so the result is its own unsigned
reading. -/
theorem toNat_humFinish (pre : Word32) : ((humFinish pre).toNat : Int) =
    (if pre.toInt < 0 then 0 else if 419430400 < pre.toInt then 419430400 else pre.toInt) / 2 ^ 12 := by
  have hval : (humFinish pre).toInt =
      (if pre.toInt < 0 then 0 else if 419430400 < pre.toInt then 419430400 else pre.toInt) / 2 ^ 12 := by
    rw [humFinish, toInt_asr32, toInt_clamp32]
    rfl
  have hnonneg : 0 ≤ (humFinish pre).toInt := by rw [hval]; split_ifs <;> omega
  rw [← hval, BitVec.toInt_eq_toNat_of_lt (BitVec.toInt_pos_iff.1 hnonneg)]

theorem compH_of_spec {c : Config} (hc : c.compH = .spec) : compH c = compHSpec := by
  funext x tfine adcH; rw [compH, hc]

/-- Settles O37: the product of `a` and `b` and its correction, clamped and shifted. -/
theorem humidityFormula : Obligations.HumidityFormula := by
  intro c x tfine adcH hc v a a' b1 b2 b b' p y y2 z
  have hpre : (humPre x tfine adcH).toInt = z := by rw [toInt_humPre, toInt_humA, toInt_humB]
  rw [compH_of_spec hc, compHSpec, toNat_humFinish, hpre]

/-! ## Exact scaling of the humidity (R210) -/

/-- Every admissible `CompH` ends in the clamp and the shift (R201 PH-2). -/
theorem exists_compH_eq_humFinish (c : Config) (x : HumCal) (tfine : Word32) (adcH : BitVec 16) :
    ∃ pre, compH c x tfine adcH = humFinish pre := by
  unfold compH
  split
  · exact ⟨_, rfl⟩
  · exact ⟨_, rfl⟩

/-- The clamp's upper end, shifted. -/
theorem toNat_humFinish_le (pre : Word32) : (humFinish pre).toNat ≤ 102400 := by
  have h := toNat_humFinish pre
  split_ifs at h <;> omega

/-- A 24-bit number times a power of two is the value of a pattern: it is normalized by doubling it into the exponent
below. -/
theorem exists_magnitude_eq {s : Nat} (hs : s < 2 ^ 24) (k : Nat) : ∃ m, magnitude m = s * (2 ^ k / 2 ^ 149) := by
  induction k generalizing s with
  | zero => exact ⟨0 * 2 ^ 23 + s, magnitude_of_isSignificand ⟨hs.le, .inl rfl⟩⟩
  | succ k ih =>
    by_cases hnorm : 2 ^ 23 ≤ s
    · exact ⟨(k + 1) * 2 ^ 23 + s, magnitude_of_isSignificand ⟨hs.le, .inr hnorm⟩⟩
    · obtain ⟨m, hm⟩ := ih (s := 2 * s) (by omega)
      refine ⟨m, hm.trans ?_⟩
      push_cast
      ring

/-- Rounding is exact on the value of a pattern below the overflow threshold: no pattern is nearer than that one. -/
theorem roundF_exact {c : Config} (hc : c.fmt = .spec) {n d m : Nat} (hd : 0 < d)
    (hlt : (n : ℚ) / d < 2 ^ 128 - 2 ^ 103) (hm : magnitude m = (n : ℚ) / d) :
    (roundF c false n d).toNat < 0x7F800000 ∧ magnitude (roundF c false n d).toNat = (n : ℚ) / d := by
  obtain rfl | hn := Nat.eq_zero_or_pos n
  · rw [roundF_zero hc, Nat.cast_zero, zero_div]
    exact ⟨by decide, (magnitude_of_lt (f := 0) (by decide)).trans (by norm_num)⟩
  · have hfin := roundPattern_lt_of_lt hn hd hlt
    have hnear := (roundPattern_nearest hn hd m).1
    rw [hm, sub_self, abs_zero] at hnear
    rw [toNat_roundF_pos hc hn, min_eq_right hfin.le]
    exact ⟨hfin, sub_eq_zero.1 (abs_nonpos_iff.1 hnear)⟩

/-- `i2f` is exact on 24-bit numbers. -/
theorem i2fUnsigned_exact {c : Config} (hc : c.fmt = .spec) {v : Word32} (hv : v.toNat < 2 ^ 24) :
    (i2fUnsigned c v).toNat < 0x7F800000 ∧ magnitude (i2fUnsigned c v).toNat = v.toNat := by
  have hv' : (v.toNat : ℚ) < 2 ^ 24 := by exact_mod_cast hv
  obtain ⟨m, hm⟩ := exists_magnitude_eq hv 149
  have h := roundF_exact hc (n := v.toNat) Nat.one_pos (m := m) (by rw [Nat.cast_one]; linarith)
    (by rw [hm, Nat.cast_one]; ring)
  rwa [Nat.cast_one, div_one] at h

/-- `fdiv` of a finite pattern without sign is exact where the quotient is the value of a pattern. -/
theorem fdiv_exact {c : Config} (hc : c.fmt = .spec) {p : Word32} {k m : Nat} (hk : 0 < k)
    (hp : p.toNat < 0x7F800000) (hlt : magnitude p.toNat / k < 2 ^ 128 - 2 ^ 103)
    (hm : magnitude m = magnitude p.toNat / k) :
    (fdiv c p k).toNat < 0x7F800000 ∧ magnitude (fdiv c p k).toNat = magnitude p.toNat / k := by
  obtain ⟨-, hden, hvalue⟩ := valueSpec_spec p
  have hsign : p.msb = false := BitVec.msb_eq_false_iff_two_mul_lt.2 (by omega)
  have hquot : ((valueSpec p).2.1 : ℚ) / ((valueSpec p).2.2 * k : Nat) = magnitude p.toNat / k := by
    rw [Nat.cast_mul, ← div_div, hvalue, Nat.mod_eq_of_lt (by omega)]
  rw [← hquot] at hlt hm ⊢
  rw [fdiv_of_spec hc, hsign]
  exact roundF_exact hc (Nat.mul_pos hden hk) hlt hm

/-- Settles O39: the clamp bounds the integer, which is then a 24-bit number, and so is its 1024th in smaller units. -/
theorem humidityBounds : Obligations.HumidityBounds := by
  refine ⟨fun c x tfine adcH => ?_, fun c hint hc hle => ?_⟩
  · obtain ⟨pre, hpre⟩ := exists_compH_eq_humFinish c x tfine adcH
    exact hpre ▸ toNat_humFinish_le pre
  · have hle' : (hint.toNat : ℚ) ≤ 102400 := by exact_mod_cast hle
    have hbits : hint.toNat < 2 ^ 24 := by omega
    obtain ⟨hfin, hval⟩ := i2fUnsigned_exact hc hbits
    obtain ⟨m, hm⟩ := exists_magnitude_eq hbits 139
    obtain ⟨hfin', hval'⟩ := fdiv_exact hc (k := 1024) (m := m) (by decide) hfin
      (by rw [hval, Nat.cast_ofNat]; linarith) (by rw [hm, hval, Nat.cast_ofNat]; ring)
    rw [hval, Nat.cast_ofNat] at hval'
    refine ⟨hfin, hval, hfin', hval', ?_, ?_⟩
    · rw [hval']
      positivity
    · rw [hval']
      linarith

end Sys2Proof.Machine
end

-- ==== The message on PCMD and the steps of PARSE (44_parser.md R230 to R243) ====
section
/-! PROOFS. A message on `PCMD` is its command run, or the answer to an illegal opcode; then each step of the SP unit with
its operands there. -/

namespace Sys2Proof.Machine
open Sys2Proof.Expect

/-! ## A message on `PCMD` at a host turn -/

/-- The state at which a message taken off `PCMD` is run: its turn and the message are used up. -/
theorem withMessages_popTurn (rest : List Byte) (s : State) :
    withMessages rest (popTurn s) = { s with env := { s.env with turns := s.env.turns.tail, pcmdIn := rest } } := rfl

section HostSpTurn
variable {s : State} {op len : Byte} {operand rest : List Byte} (hk : nextTurn s = .hostSp)
include hk

/-- On a busy port the message waits (00_scope.md R15). -/
theorem step_hostSp_of_busy (hs : s.sp.pseq ≠ 0#3) : step s = .next (popTurn s) := by
  have hf : fetchHostSp (popTurn s) = .nothing (popTurn s) := if_neg ((pcmdReady_iff (popTurn s)).not.2 hs)
  rw [step_of_nextTurn hk, fetchTurn, hf]
  rfl

variable (hs : s.sp.pseq = 0#3) (hlen : operand.length = len.toNat)
include hs hlen

/-- A whole message that is `PARSE` is taken and run (44_parser.md R230). -/
theorem step_hostSp_of_parse (hc : s.env.pcmdIn = 0x03#8 :: len :: (operand ++ rest)) :
    step s = exec (.parse operand) (withMessages rest (popTurn s)) :=
  step_hostSp hk hs (hc ▸ framePcmd_append rest hlen) ((decodePcmd_eq_ok_iff _ _ _).2 ⟨rfl, rfl⟩)

/-- Any other whole message is taken, its operand too, and answered with `IllegalCommand` (R124). -/
theorem step_hostSp_of_illegal (hc : s.env.pcmdIn = op :: len :: (operand ++ rest)) (hop : op ≠ 0x03#8) :
    step s = .next (refuseSp op .illegalCommand (clearPrsp (withMessages rest (popTurn s)))) := by
  have hframe : framePcmd s.env.pcmdIn = some (op, operand, rest) := hc ▸ framePcmd_append rest hlen
  have hd : decodePcmd op operand = .error (.illegalOpcode op) := if_neg hop
  have hf : fetchHostSp (popTurn s) = .illegalPcmd op (withMessages rest (popTurn s)) := by
    simp [fetchHostSp, (pcmdReady_iff (popTurn s)).2 hs, hframe, hd, withMessages]
  rw [step_of_nextTurn hk, fetchTurn, hf]
  rfl

end HostSpTurn

/-- Settles O5: by the port, then by the opcode; `PARSE` latches as `parseTaken` says. -/
theorem sentenceAcceptance : Obligations.SentenceAcceptance := by
  intro s op len operand rest text hk hc hlen htext
  refine ⟨step_hostSp_of_busy hk, fun hs => ?_⟩
  by_cases hop : op = 0x03#8
  · subst hop
    rw [step_hostSp_of_parse hk hs hlen hc, parseTaken (withMessages rest (popTurn s)) operand text hs htext]
    rfl
  · rw [step_hostSp_of_illegal hk hs hlen hc hop]
    simp only [ne_eq, hop, not_false_eq_true, if_true]
    rfl

/-! ## The steps, with their operands there -/

section Steps
variable {s : State} {text : List Byte}

/-- Step `P_PFX` with a sentence (R233). -/
theorem exec_pPfx_of_sent (h : s.sp.sent = .val text) :
    exec .pPfx s = .next (if prefixMatches text then setPseq 2#3 s else raiseSp .wrongSentenceType s) := by
  rw [exec, execPPfx, h]
  rfl

/-- Step `P_COPY` with a sentence (R234). -/
theorem exec_pCopy_of_sent (h : s.sp.sent = .val text) :
    exec .pCopy s = .next (s.withSp { s.sp with
      wlen := .val (keptText s.cfg text).length
      wbuf := overwrite (keptText s.cfg text ++ [0x00#8]) s.sp.wbuf
      pseq := 3#3 }) := by
  rw [exec, execPCopy, h]
  rfl

/-- Step `P_SPLIT` on a kept text (R235). -/
theorem exec_pSplit_of_holdsText {cap : Nat} (h : holdsText cap s.sp text) :
    exec .pSplit s = .next (s.withSp { s.sp with
      nf := .val (splitText s.cfg text).length
      fs := overwrite (((splitText s.cfg text).take 8).map Prod.fst) s.sp.fs
      fl := overwrite (((splitText s.cfg text).take 8).map Prod.snd) s.sp.fl
      pseq := 4#3 }) := by
  rw [exec, execPSplit, h.workText]
  rfl

/-- Step `P_CNT` with a count (R236). -/
theorem exec_pCnt_of_nf {n : Nat} (h : s.sp.nf = .val n) :
    exec .pCnt s = .next (if n < Config.nfieldMin then raiseSp .incompleteSentence s else setPseq 5#3 s) := by
  rw [exec, execPCnt, h]
  rfl

/-- Field `j` is `f`: its place is stored, and `f` stands there in the working buffer (R237). -/
def HoldsField (p : SpUnit) (j : Nat) (f : List Byte) : Prop :=
  ∃ a, regAt p.fs j = .val a ∧ regAt p.fl j = .val f.length ∧ (p.wbuf.drop a).take f.length = f.map Reg.val

/-- A stored field reads back. -/
theorem HoldsField.fieldText {j : Nat} {f : List Byte} (h : HoldsField s.sp j f) : fieldText s j = .ok f := by
  obtain ⟨a, hfs, hfl, hw⟩ := h
  show ((regAt s.sp.fs j).get (.fs j) >>= fun start => (regAt s.sp.fl j).get (.fl j) >>= fun len =>
    readCells .wbuf s.sp.wbuf start len) = _
  rw [hfs, hfl]
  exact readCells_of_take hw

/-- Step `P_SCAN` with fields 2 to 7 (R237). -/
theorem exec_pScan_of_holdsField {f2 f3 f4 f5 f6 f7 : List Byte} (h2 : HoldsField s.sp 2 f2)
    (h3 : HoldsField s.sp 3 f3) (h4 : HoldsField s.sp 4 f4) (h5 : HoldsField s.sp 5 f5) (h6 : HoldsField s.sp 6 f6)
    (h7 : HoldsField s.sp 7 f7) :
    exec .pScan s = .next (s.withSp { s.sp with
      latq := .val (scanFrac s.cfg f2), hlat := .val (hemi f3), lonq := .val (scanFrac s.cfg f4)
      hlon := .val (hemi f5), qual := .val (scanInt s.cfg f6), sats := .val (scanInt s.cfg f7)
      pseq := 6#3 }) := by
  have hfields : fixFields s = .ok (f2, f3, f4, f5, f6, f7) := by
    rw [fixFields, h2.fieldText, h3.fieldText, h4.fieldText, h5.fieldText, h6.fieldText, h7.fieldText]
    rfl
  rw [exec, execPScan, hfields]
  rfl

end Steps

/-- Settles O28: the four operands are there. -/
theorem convertStep : Obligations.ConvertStep := by
  intro s latq lonq hlat hlon hlatq hhlat hlonq hhlon
  rw [exec, execPConv, convOperands, hlatq, hhlat, hlonq, hhlon]
  rfl

/-- Settles O29: the four payload registers are there. -/
theorem parseDone : Obligations.ParseDone := by
  intro s lat lon qual sats hlat hlon hqual hsats
  rw [exec, execPDone, fixPayload, hlat, hlon, hqual, hsats]
  rfl

/-! ## The steps by their rules -/

/-- The test of R233 compares seven bytes, so a shorter sentence fails it. -/
theorem prefixMatches_iff (text : List Byte) :
    prefixMatches text = true ↔ 7 ≤ text.length ∧ text.take 7 = Config.sentencePrefix := by
  rw [prefixMatches, beq_iff_eq]
  refine ⟨fun h => ⟨?_, h⟩, And.right⟩
  have hlen := congrArg List.length h
  rw [List.length_take, show Config.sentencePrefix.length = 7 from rfl] at hlen
  omega

/-- Settles O23: `prefixMatches` is the comparison of the rule. -/
theorem prefixStep : Obligations.PrefixStep := by
  intro s text h
  rw [exec_pPfx_of_sent h, if_congr (prefixMatches_iff text) rfl rfl]
  rfl

/-- Settles O24: the bytes overwritten are the kept ones and the terminator. -/
theorem copyStep : Obligations.CopyStep := by
  refine ⟨fun s text h => ?_, fun n text hz hm => hz (List.mem_of_mem_take hm), rfl⟩
  have hlen : (keptText s.cfg text).length = min text.length (s.cfg.bufCap - 1) := by
    rw [keptText, List.length_take, Nat.min_comm]
  have hbuf : overwrite (keptText s.cfg text ++ [0x00#8]) s.sp.wbuf =
      (keptText s.cfg text).map Reg.val ++
        .val 0x00#8 :: s.sp.wbuf.drop (min text.length (s.cfg.bufCap - 1) + 1) := by
    simp [overwrite, hlen]
  rw [exec_pCopy_of_sent h, hbuf, hlen]
  rfl

/-- Settles O25: the places overwritten are those of the first eight fields. -/
theorem splitStep : Obligations.SplitStep := by
  intro s text h _
  have hfile (g : Nat × Nat → Nat) (file : List (Reg Nat)) :
      overwrite (((splitText s.cfg text).take 8).map g) file =
        ((splitText s.cfg text).take 8).map (fun f => Reg.val (g f)) ++
          file.drop (min 8 (splitText s.cfg text).length) := by
    simp [overwrite, Function.comp_def]
  rw [exec_pSplit_of_holdsText h, hfile Prod.fst, hfile Prod.snd]
  rfl

/-- Settles O26: `NF` alone decides. -/
theorem countStep : Obligations.CountStep := fun _ _ h => exec_pCnt_of_nf h

/-- Settles O27: each of the six fields reads back. -/
theorem scanStep : Obligations.ScanStep := by
  intro s f2 f3 f4 f5 f6 f7 h
  have hfield : ∀ j f, (j, f) ∈ [(2, f2), (3, f3), (4, f4), (5, f5), (6, f6), (7, f7)] → HoldsField s.sp j f := by
    intro j f hmem
    obtain ⟨a, hfs, hfl, -, hw⟩ := h j f hmem
    exact ⟨a, hfs, hfl, hw⟩
  exact exec_pScan_of_holdsField (hfield 2 f2 (by simp)) (hfield 3 f3 (by simp)) (hfield 4 f4 (by simp))
    (hfield 5 f5 (by simp)) (hfield 6 f6 (by simp)) (hfield 7 f7 (by simp))

end Sys2Proof.Machine
end

-- ==== Split and the number scans (44_parser.md R235 to R239, 93_implementation_defined.md U7, U8, U18) ====
section
/-! PROOFS. The default `Split` as the list of the pieces between commas; the number scans on a text cut after its
leading digits. -/

namespace Sys2Proof.Machine
open Sys2Proof.Expect

/-! ## The default `Split` (R235) -/

theorem splitText_of_spec {c : Config} (hc : c.split = .spec) (w : List Byte) : splitText c w = splitSpec w := by
  rw [splitText, hc]

/-- The fields of a text whose bytes before index `i` are `pre`, its current field begun at `start`: the bytes of that
field scanned so far are what the library's scan holds, reversed. -/
theorem splitFrom_pieces (w pre t : List Byte) (start : Nat) (hw : w = pre ++ t) (hs : start ≤ pre.length) :
    (splitFrom start pre.length t).map (fun f => (w.drop f.1).take f.2) =
      t.splitOnPPrepend (· == comma) (pre.drop start).reverse := by
  induction t generalizing pre start with
  | nil => simp [splitFrom, hw]
  | cons x xs ih =>
    have hw' : w = (pre ++ [x]) ++ xs := by rw [hw, List.append_cons]
    have hlen : (pre ++ [x]).length = pre.length + 1 := by simp
    by_cases hx : x = comma
    · have hnext := ih (pre ++ [x]) (pre.length + 1) hw' hlen.ge
      rw [hlen, List.drop_eq_nil_of_le hlen.le] at hnext
      have hpiece : (w.drop start).take (pre.length - start) = pre.drop start := by
        rw [hw, List.drop_append_of_le_length hs]
        exact List.take_left' (by simp)
      rw [splitFrom, if_pos hx, List.map_cons, hnext, hpiece, List.splitOnPPrepend_cons_pos (by simp [hx]),
        List.reverse_reverse]
      rfl
    · have hnext := ih (pre ++ [x]) start hw' (by omega)
      rw [hlen, List.drop_append_of_le_length hs, List.reverse_append] at hnext
      rw [splitFrom, if_neg hx, hnext, List.splitOnPPrepend_cons_neg (by simp [hx])]
      rfl

/-- One field more than there are commas. -/
theorem splitFrom_length (start i : Nat) (t : List Byte) : (splitFrom start i t).length = t.count comma + 1 := by
  induction t generalizing start i with
  | nil => rfl
  | cons x xs ih =>
    by_cases hx : x = comma
    · rw [splitFrom, if_pos hx, List.length_cons, ih, hx, List.count_cons_self]
    · rw [splitFrom, if_neg hx, ih, List.count_cons_of_ne hx]

/-- The first field starts where the current one began. -/
theorem splitFrom_start {start i : Nat} {t : List Byte} {f : Nat × Nat} (hf : (splitFrom start i t)[0]? = some f) :
    f.1 = start := by
  induction t generalizing i with
  | nil =>
    cases hf
    rfl
  | cons x xs ih =>
    rw [splitFrom] at hf
    split at hf
    · cases hf
      rfl
    · exact ih hf

/-- Each next field starts one past the comma that ends the one before. -/
theorem splitFrom_next {start i j : Nat} {t : List Byte} (hs : start ≤ i) {f g : Nat × Nat}
    (hf : (splitFrom start i t)[j]? = some f) (hg : (splitFrom start i t)[j + 1]? = some g) : g.1 = f.1 + f.2 + 1 := by
  induction t generalizing start i j with
  | nil => cases hg
  | cons x xs ih =>
    rw [splitFrom] at hf hg
    split at hf
    · next hx =>
      rw [if_pos hx] at hg
      cases j with
      | zero =>
        cases hf
        rw [splitFrom_start hg]
        simp only
        omega
      | succ j => exact ih le_rfl hf hg
    · next hx =>
      rw [if_neg hx] at hg
      exact ih (Nat.le_succ_of_le hs) hf hg

/-- The premise of U7 on the first eight default fields, as the model tests it. -/
theorem firstFieldsFull_iff (fields : List (Nat × Nat)) :
    firstFieldsFull fields = true ↔ ∀ f ∈ fields.take 8, f.2 ≠ 0 := by
  simp [firstFieldsFull]

/-- Settles O44: the default fields one law at a time; the bounds and the agreement from the model's laws. -/
theorem splitFields : Obligations.SplitFields := by
  refine ⟨fun c w hc => ?_, fun c w f => splitText_bounds, fun c d w hd hfull => ?_⟩
  · rw [splitText_of_spec hc]
    exact ⟨splitFrom_pieces w [] w 0 rfl le_rfl, splitFrom_length 0 0 w, fun _ => splitFrom_start,
      fun _ _ _ => splitFrom_next le_rfl⟩
  · rw [splitText_of_spec hd] at hfull ⊢
    have hfull' := (firstFieldsFull_iff _).2 hfull
    exact ⟨splitText_take_of_full c hfull', splitText_length_of_full c hfull'⟩

/-! ## Decimal values (R238) -/

@[simp] theorem isDigit_iff (x : Byte) : isDigit x = true ↔ IsDigit x := by
  simp [isDigit, IsDigit]

/-- One more digit. -/
theorem decValue_concat (a : List Byte) (x : Byte) : decValue (a ++ [x]) = 10 * decValue a + (x.toNat - 0x30) := by
  rw [decValue, List.foldl_append]
  rfl

/-- Digits behind others: the others count for as many places more. -/
theorem decValue_append (a b : List Byte) : decValue (a ++ b) = decValue a * 10 ^ b.length + decValue b := by
  induction b using List.reverseRecOn with
  | nil => rw [List.append_nil, List.length_nil, pow_zero, Nat.mul_one]; rfl
  | append_singleton b x ih =>
    rw [← List.append_assoc, decValue_concat, decValue_concat, ih, List.length_append, List.length_singleton, pow_succ]
    ring

/-- Digits with the last of them behind the point. -/
theorem rat_decValue_append (a b : List Byte) :
    rat ⟨decValue (a ++ b), b.length⟩ = decValue a + (decValue b : ℚ) / 10 ^ b.length := by
  have hpow : (10 : ℚ) ^ b.length ≠ 0 := by positivity
  rw [rat, decValue_append]
  push_cast
  field_simp

/-- Digits without a point. -/
theorem rat_decValue (a : List Byte) : rat ⟨decValue a, 0⟩ = decValue a := by
  rw [rat, pow_zero, div_one]

/-! ## Where the leading digits end -/

/-- The point ends the digits before it. -/
theorem not_isDigit_of_head?_point {t : List Byte} : ∀ x, (point :: t).head? = some x → ¬IsDigit x := by
  rintro x ⟨rfl⟩
  exact (isDigit_iff point).not.1 (by decide)

section Digits
variable {a rest : List Byte} (ha : ∀ x ∈ a, IsDigit x) (hrest : ∀ x, rest.head? = some x → ¬IsDigit x)
include ha hrest

theorem takeWhile_isDigit_append : (a ++ rest).takeWhile isDigit = a := by
  rw [List.takeWhile_append_of_pos fun x hx => (isDigit_iff x).2 (ha x hx)]
  cases rest with
  | nil => exact List.append_nil a
  | cons x xs => rw [List.takeWhile_cons_of_neg ((isDigit_iff x).not.2 (hrest x rfl)), List.append_nil]

theorem dropWhile_isDigit_append : (a ++ rest).dropWhile isDigit = rest := by
  rw [List.dropWhile_append_of_pos fun x hx => (isDigit_iff x).2 (ha x hx)]
  cases rest with
  | nil => rfl
  | cons x xs => rw [List.dropWhile_cons_of_neg ((isDigit_iff x).not.2 (hrest x rfl))]

/-- The integer scan reads the leading digits (R239). -/
theorem toNat_scanIntSpec_append : (scanIntSpec (a ++ rest)).toNat = min (decValue a) (2 ^ 31 - 1) := by
  rw [scanIntSpec, takeWhile_isDigit_append ha hrest, BitVec.toNat_ofNat, Nat.mod_eq_of_lt (by omega)]
  rfl

/-- Without a point the leading digits are the whole number (R238). -/
theorem scanFracSpec_of_no_point (hpoint : ∀ x, rest.head? = some x → x ≠ point) :
    scanFracSpec (a ++ rest) = ⟨decValue a, 0⟩ := by
  rw [scanFracSpec, takeWhile_isDigit_append ha hrest, dropWhile_isDigit_append ha hrest]
  cases rest with
  | nil => rfl
  | cons x xs => exact if_neg (hpoint x rfl)

/-- With a point the digits behind it count too (R238). -/
theorem scanFracSpec_of_point {a' : List Byte} (ha' : ∀ x ∈ a', IsDigit x) :
    scanFracSpec (a' ++ point :: (a ++ rest)) = ⟨decValue (a' ++ a), a.length⟩ := by
  rw [scanFracSpec, takeWhile_isDigit_append ha' not_isDigit_of_head?_point,
    dropWhile_isDigit_append ha' not_isDigit_of_head?_point]
  simp only [if_true, takeWhile_isDigit_append ha hrest]

end Digits

/-! ## The texts of the grammar (U8, U18) -/

theorem scanFrac_of_spec {c : Config} (hc : c.scanFrac = .spec) (t : List Byte) : scanFrac c t = scanFracSpec t := by
  rw [scanFrac, hc]

theorem scanInt_of_spec {c : Config} (hc : c.scanInt = .spec) (t : List Byte) : scanInt c t = scanIntSpec t := by
  rw [scanInt, hc]

section Grammar
variable {a : List Byte} (ha : ∀ x ∈ a, IsDigit x)
include ha

/-- Digits alone. -/
theorem wellFormedFrac_digits : wellFormedFrac a = true := by
  have hdrop := dropWhile_isDigit_append (rest := []) ha nofun
  rw [List.append_nil] at hdrop
  rw [wellFormedFrac, hdrop]

/-- Digits around a point. -/
theorem wellFormedFrac_point {b : List Byte} (hb : ∀ x ∈ b, IsDigit x) : wellFormedFrac (a ++ point :: b) = true := by
  rw [wellFormedFrac, dropWhile_isDigit_append ha not_isDigit_of_head?_point]
  simpa using hb

/-- Digits whose value fits. -/
theorem wellFormedInt_digits (hlt : decValue a < 2 ^ 31) : wellFormedInt a = true := by
  have hle : decValue a ≤ 2147483647 := by omega
  simpa [wellFormedInt, hle] using ha

end Grammar

/-- Settles O45: the default scans on a text cut at its digits; every reading where the text is inside the grammar. -/
theorem numericText : Obligations.NumericText := by
  refine ⟨rfl, decValue_concat, fun c a b rest hc ha hb hrest => ?_, fun c a rest hc ha hrest => ?_,
    fun c a rest hc ha hrest => ?_, fun c a b ha hb => ?_, fun c a ha => ⟨?_, fun hlt => ?_⟩⟩
  · rw [scanFrac_of_spec hc, ← rat_decValue_append]
    exact congrArg rat (scanFracSpec_of_point hb hrest ha)
  · rw [scanFrac_of_spec hc, scanFracSpec_of_no_point ha (fun x hx => (hrest x hx).1) fun x hx => (hrest x hx).2,
      rat_decValue]
  · rw [scanInt_of_spec hc]
    exact toNat_scanIntSpec_append ha hrest
  · have hscan := scanFracSpec_of_point (rest := []) hb nofun ha
    rw [List.append_nil] at hscan
    rw [← rat_decValue_append, ← hscan]
    exact congrArg rat (scanFrac_of_wellFormed c (wellFormedFrac_point ha hb))
  · have hscan := scanFracSpec_of_no_point (rest := []) ha nofun nofun
    rw [List.append_nil] at hscan
    rw [scanFrac_of_wellFormed c (wellFormedFrac_digits ha), hscan, rat_decValue]
  · have hscan := toNat_scanIntSpec_append (rest := []) ha nofun
    rw [List.append_nil] at hscan
    rw [scanInt_of_wellFormed c (wellFormedInt_digits ha hlt), hscan]
    omega

end Sys2Proof.Machine
end

-- ==== The coordinate conversion (44_parser.md R242, R247) ====
section
/-! PROOFS. The fraction that the default `ConvCoord` rounds is whole degrees plus minutes over 60; its sign is put on
after rounding, and a magnitude of `2 ^ -120` or more is far above half the smallest pattern. -/

namespace Sys2Proof.Machine
open Sys2Proof.Expect

/-! ## The rounded fraction (R242) -/

theorem rat_eq_zero_iff (q : Decimal) : rat q = 0 ↔ q.mant = 0 := by
  simp [rat]

/-- Whole degrees are the floor of a hundredth. -/
theorem floor_rat_div_hundred (q : Decimal) : ⌊rat q / 100⌋ = (degrees q : ℤ) := by
  have hq : rat q / 100 = (q.mant : ℚ) / (100 * 10 ^ q.scale : Nat) := by
    rw [rat, div_div, mul_comm]
    push_cast
    rfl
  rw [hq, Rat.floor_natCast_div_natCast]
  rfl

/-- Minutes are what whole degrees leave. -/
theorem rat_sub_degrees (q : Decimal) : rat q - 100 * degrees q = (minutes q : ℚ) / 10 ^ q.scale := by
  have hsplit : (100 * 10 ^ q.scale * degrees q + minutes q : Nat) = q.mant := Nat.div_add_mod _ _
  have hpow : (10 : ℚ) ^ q.scale ≠ 0 := by positivity
  rw [rat, ← hsplit]
  push_cast
  field_simp
  ring

theorem signlessDegrees_snd_pos (q : Decimal) : 0 < (signlessDegrees q).2 :=
  Nat.mul_pos (by decide) (Nat.pow_pos (by decide))

/-- The fraction of the model is that of the pseudocode. -/
theorem signlessDegrees_value (q : Decimal) :
    ((signlessDegrees q).1 : ℚ) / (signlessDegrees q).2 =
      ⌊rat q / 100⌋ + (rat q - 100 * ⌊rat q / 100⌋) / 60 := by
  have hpow : (10 : ℚ) ^ q.scale ≠ 0 := by positivity
  rw [floor_rat_div_hundred, Int.cast_natCast, rat_sub_degrees, signlessDegrees]
  push_cast
  field_simp

/-- Dividing minutes by 60 in place of 100 does not make the number smaller. -/
theorem rat_div_hundred_le (q : Decimal) : rat q / 100 ≤ ((signlessDegrees q).1 : ℚ) / (signlessDegrees q).2 := by
  have hmin : (0 : ℚ) ≤ rat q - 100 * ⌊rat q / 100⌋ := by
    have := Int.floor_le (rat q / 100)
    linarith
  rw [signlessDegrees_value]
  linarith

/-- A magnitude that is not zero gives a fraction that is not zero. -/
theorem signlessDegrees_fst_pos {q : Decimal} (h : 0 < rat q) : 0 < (signlessDegrees q).1 := by
  have hfrac : 0 < ((signlessDegrees q).1 : ℚ) / (signlessDegrees q).2 := by
    have := rat_div_hundred_le q
    linarith
  have hden : (0 : ℚ) < (signlessDegrees q).2 := by exact_mod_cast signlessDegrees_snd_pos q
  exact_mod_cast (div_pos_iff_of_pos_right hden).1 hfrac

/-! ## The default conversion -/

/-- `S` and `W` negate, no other hemisphere. -/
theorem negates_eq_decide (h : Option Byte) : negates h = decide (h = some 0x53#8 ∨ h = some 0x57#8) := by
  rw [Bool.eq_iff_iff]
  simp [negates]

section Default
variable {c : Config} {q : Decimal} (hc : c.conv = .spec)
include hc

theorem convCoord_of_spec (q : Decimal) (h : Option Byte) : convCoord c q h = convCoordSpec c q h := by
  rw [convCoord, hc]

/-- A zero magnitude passes through as plus zero. -/
theorem convCoord_of_zero (hq : rat q = 0) (h : Option Byte) : convCoord c q h = 0#32 := by
  rw [convCoord_of_spec hc]
  exact if_pos ((rat_eq_zero_iff q).1 hq)

/-- Any other magnitude is rounded once. -/
theorem convCoord_of_ne_zero (hq : rat q ≠ 0) (h : Option Byte) :
    convCoord c q h = roundF c (negates h) (signlessDegrees q).1 (signlessDegrees q).2 := by
  rw [convCoord_of_spec hc]
  exact if_neg ((rat_eq_zero_iff q).not.1 hq)

end Default

/-- Settles O46: the fraction is `signlessDegrees`; the examples are evaluated. -/
theorem convCoordValue : Obligations.ConvCoordValue := by
  refine ⟨fun c q h hc => ⟨fun hq => convCoord_of_zero hc hq h, fun hq => ?_⟩, fun c hc hfmt => ?_⟩
  · refine ⟨_, _, signlessDegrees_snd_pos q, signlessDegrees_value q, ?_⟩
    rw [convCoord_of_ne_zero hc hq, negates_eq_decide]
  · simp only [convCoord_of_spec hc, convCoordSpec, roundF_of_spec hfmt]
    decide

/-! ## The sign (R247) -/

/-- A fraction of at least the smallest pattern's value is not rounded to zero: zero is further away than that pattern. -/
theorem roundPattern_pos {n d : Nat} (hn : 0 < n) (hd : 0 < d) (hle : 1 / 2 ^ 149 ≤ (n : ℚ) / d) :
    0 < roundPattern n d := by
  refine Nat.pos_of_ne_zero fun hzero => ?_
  have hnear := (roundPattern_nearest hn hd 1).1
  have hone : magnitude 1 = 1 / 2 ^ 149 := by
    rw [magnitude_of_lt (by norm_num), Nat.cast_one]
  have hnone : magnitude 0 = 0 := by
    rw [magnitude_of_lt (by norm_num), Nat.cast_zero, zero_div]
  rw [hzero, hone, hnone, lower_nearer_iff (by positivity)] at hnear
  linarith [show (0 : ℚ) < 1 / 2 ^ 149 by positivity]

/-- Exclusive or with a bit above a number adds it. -/
theorem xor_two_pow_of_lt {m k : Nat} (h : m < 2 ^ k) : m ^^^ 2 ^ k = 2 ^ k + m := by
  have hdiv : (m ^^^ 2 ^ k) / 2 ^ k = 1 := by
    rw [Nat.xor_div_two_pow, Nat.div_eq_of_lt h, Nat.div_self (Nat.two_pow_pos k), Nat.zero_xor]
  have hmod : (m ^^^ 2 ^ k) % 2 ^ k = m := by
    rw [Nat.xor_mod_two_pow, Nat.mod_eq_of_lt h, Nat.mod_self, Nat.xor_zero]
  have hsplit := Nat.div_add_mod (m ^^^ 2 ^ k) (2 ^ k)
  rw [hdiv, hmod, Nat.mul_one] at hsplit
  exact hsplit.symm

section Sign
variable {c : Config} (hc : c.fmt = .spec) {n : Nat} (hn : 0 < n) (d : Nat)
include hc hn

/-- The sign bit and the magnitude of a rounded number. -/
theorem roundF_sign_and_magnitude (neg : Bool) : (roundF c neg n d).msb = neg ∧
    (roundF c neg n d).toNat % 2 ^ 31 = min 0x7F800000 (roundPattern n d) := by
  cases neg with
  | false =>
    rw [BitVec.msb_eq_false_iff_two_mul_lt, toNat_roundF_pos hc hn]
    omega
  | true =>
    rw [BitVec.msb_eq_true_iff_two_mul_ge, toNat_roundF_neg hc hn, toNat_roundF_pos hc hn]
    omega

/-- Rounding a negated number flips the sign bit. -/
theorem roundF_true_eq_xor : roundF c true n d = roundF c false n d ^^^ 0x80000000#32 := by
  have hpos : (roundF c false n d).toNat < 2 ^ 31 := by
    rw [toNat_roundF_pos hc hn]
    omega
  apply BitVec.eq_of_toNat_eq
  rw [toNat_roundF_neg hc hn, BitVec.toNat_xor]
  exact (xor_two_pow_of_lt hpos).symm

end Sign

/-- Settles O47: a fraction of at least `2 ^ -120 / 100` is not rounded to zero, and the sign is put on after rounding. -/
theorem convSignLaw : Obligations.ConvSignLaw := by
  intro c q h hc hfmt
  refine ⟨fun hq => ?_, fun hq => convCoord_of_zero hc hq h, fun hq => ?_⟩
  · have hpos : 0 < rat q := lt_of_lt_of_le (by positivity) hq
    have hn := signlessDegrees_fst_pos hpos
    have hpattern : 0 < roundPattern (signlessDegrees q).1 (signlessDegrees q).2 := by
      refine roundPattern_pos hn (signlessDegrees_snd_pos q) ?_
      calc (1 : ℚ) / 2 ^ 149
        _ ≤ 2 ^ (-120 : ℤ) / 100 := by norm_num
        _ ≤ rat q / 100 := by gcongr
        _ ≤ _ := rat_div_hundred_le q
    obtain ⟨hsign, hmag⟩ := roundF_sign_and_magnitude hfmt hn (signlessDegrees q).2 (negates h)
    rw [convCoord_of_ne_zero hc hpos.ne', hsign, hmag, negates_eq_decide]
    exact ⟨fun hs => ⟨decide_eq_true hs, by omega⟩, fun hs => ⟨decide_eq_false hs, by omega⟩⟩
  · rw [convCoord_of_ne_zero hc hq.ne', convCoord_of_ne_zero hc hq.ne']
    exact roundF_true_eq_xor hfmt (signlessDegrees_fst_pos hq) _

end Sys2Proof.Machine
end

-- ==== A whole PARSE (44_parser.md R231, R253) ====
section
/-! PROOFS. Where the SP unit stands after each of its turns, taken from the last step back to the first; what they come
to is `parseResult`, which reads no more of the sentence than is kept. -/

namespace Sys2Proof.Machine
open Sys2Proof.Expect

/-! ## Turns of the SP unit -/

/-- `s` with the SP unit at `p` and the turns `turns` to come. -/
def spAt (s : State) (p : SpUnit) (turns : List Turn) : State :=
  { s with sp := p, env := { s.env with turns := turns } }

/-- `k` turns of the SP unit take it from `p` to an end with response `r`: it is idle, keeps its sentence `text`, and the
rest of the machine is as at `s`. -/
def EndsWith (s : State) (text : List Byte) (r : Prsp) (k : Nat) (p : SpUnit) : Prop :=
  ∀ later, ∃ q : SpUnit, Sys2Proof.core.run k (spAt s p (List.replicate k .sp ++ later)) = .next (spAt s q later) ∧
    q.prsp = r ∧ q.pseq = 0#3 ∧ q.sent = .val text

section Ends
variable {s : State} {text : List Byte} {r : Prsp} {k : Nat} {p p' : SpUnit}

/-- One turn, which runs the step that `PSEQ` names, and then the others. -/
theorem EndsWith.turn {v : BitVec 3} (hp : p.pseq = v)
    (hexec : ∀ turns, exec (decodePseq v) (spAt s p turns) = .next (spAt s p' turns)) (h : EndsWith s text r k p') :
    EndsWith s text r (k + 1) p := by
  intro later
  subst hp
  obtain ⟨q, hrun, hq⟩ := h later
  have hturn : step (spAt s p (.sp :: (List.replicate k .sp ++ later))) =
      .next (spAt s p' (List.replicate k .sp ++ later)) := (step_sp rfl).trans (hexec _)
  have hrun' := (run_add (n := k) (run_one hturn)).trans hrun
  rw [Nat.add_comm] at hrun'
  exact ⟨q, hrun', hq⟩

/-- An idle unit stays as it is (R232). -/
theorem endsWith_of_idle (hp : p.pseq = 0#3) (hr : p.prsp = r) (ht : p.sent = .val text) :
    EndsWith s text r k p := by
  induction k with
  | zero => exact fun _ => ⟨p, rfl, hr, hp, ht⟩
  | succ k ih => exact ih.turn hp fun _ => rfl

/-- A turn whose step fails ends the `PARSE`, its sentence kept (60_exceptions.md R279, log 15). -/
theorem endsWith_of_raiseSp {v : BitVec 3} (e : Err) (hp : p.pseq = v)
    (hexec : ∀ turns, exec (decodePseq v) (spAt s p turns) = .next (raiseSp e (spAt s p turns)))
    (ht : p.sent = .val text) : EndsWith s text (Prsp.ended opParse e.code) (k + 1) p :=
  EndsWith.turn (p' := (raiseSp e (s.withSp p)).sp) hp hexec (endsWith_of_idle rfl rfl ht)

end Ends

/-! ## The fused result, case by case -/

/-- The response to a `PARSE` with a fix. -/
def payloadAnswer (lat lon qual sats : Word32) : Prsp :=
  { valid := true, op := .val 0x03#8, status := .val 0x00#8, lat := .val lat, lon := .val lon, qual := .val qual
    sats := .val sats }

/-- The response to a sentence whose fields 2 to 7 are the texts `f j`. -/
def fixAnswer (c : Config) (f : Nat → List Byte) : Prsp :=
  payloadAnswer (convCoord c (scanFrac c (f 2)) (hemi (f 3))) (convCoord c (scanFrac c (f 4)) (hemi (f 5)))
    (scanInt c (f 6)) (scanInt c (f 7))

section Result
variable {c : Config} {text : List Byte}

theorem parseResult_of_wrong_type (h : ¬prefixMatches text = true) :
    parseResult c text = Prsp.ended opParse Err.wrongSentenceType.code := if_neg h

variable (h : prefixMatches text = true)
include h

theorem parseResult_of_few_fields (hn : (splitText c (keptText c text)).length < Config.nfieldMin) :
    parseResult c text = Prsp.ended opParse Err.incompleteSentence.code := by
  rw [parseResult, if_pos h]
  exact if_pos hn

theorem parseResult_of_fields (hn : ¬(splitText c (keptText c text)).length < Config.nfieldMin) :
    parseResult c text =
      fixAnswer c (fieldOf (keptText c text) (splitText c (keptText c text))) := by
  rw [parseResult, if_pos h]
  exact if_neg hn

end Result

/-! ## From each step to the end -/

/-- The fields that `P_SPLIT` stores are those of the fused result. -/
theorem holdsField_of_split {c : Config} {w : List Byte} {cap : Nat} {p : SpUnit} {fs fl : List (Reg Nat)}
    {j : Nat} (hw : holdsText cap p w) (hfs : p.fs = overwrite (((splitText c w).take 8).map Prod.fst) fs)
    (hfl : p.fl = overwrite (((splitText c w).take 8).map Prod.snd) fl) (h8 : j < 8)
    (hj : j < (splitText c w).length) : HoldsField p j (fieldOf w (splitText c w) j) := by
  have hfield : fieldOf w (splitText c w) j = (w.drop (splitText c w)[j].1).take (splitText c w)[j].2 := by
    rw [fieldOf, List.getD_eq_getElem _ _ hj]
  have hbounds := splitText_bounds (List.getElem_mem hj)
  have hlen : (fieldOf w (splitText c w) j).length = (splitText c w)[j].2 := by
    rw [hfield, List.length_take, List.length_drop]
    omega
  obtain ⟨-, -, -, hbuf⟩ := hw
  have hkept : p.wbuf.take w.length = w.map Reg.val := by
    have := congrArg (List.take w.length) hbuf
    simpa [List.take_take] using this
  refine ⟨(splitText c w)[j].1, ?_, ?_, ?_⟩
  · rw [hfs, regAt_overwrite (by simp; omega)]
    simp
  · rw [hfl, regAt_overwrite (by simp; omega), hlen]
    simp
  · rw [hlen, hfield, List.map_take, List.map_drop, ← hkept, List.drop_take, List.take_take, Nat.min_eq_left (by omega)]

section Stages
variable {s : State} {text : List Byte} {p : SpUnit}

/-- From step 7 with its payload. -/
theorem endsWith_of_payload {lat lon qual sats : Word32} (hp : p.pseq = 7#3) (hlat : p.lat = .val lat)
    (hlon : p.lon = .val lon) (hqual : p.qual = .val qual) (hsats : p.sats = .val sats)
    (ht : p.sent = .val text) :
    EndsWith s text (payloadAnswer lat lon qual sats) 1 p :=
  EndsWith.turn (p' := { p with prsp := payloadAnswer lat lon qual sats, pseq := 0#3 }) hp
    (fun turns => parseDone (spAt s p turns) lat lon qual sats hlat hlon hqual hsats) (endsWith_of_idle rfl rfl ht)

/-- From step 6 with the scanned values. -/
theorem endsWith_of_scanned {latq lonq : Decimal} {hlat hlon : Option Byte} {qual sats : Word32} (hp : p.pseq = 6#3)
    (hlatq : p.latq = .val latq) (hhlat : p.hlat = .val hlat) (hlonq : p.lonq = .val lonq) (hhlon : p.hlon = .val hlon)
    (hqual : p.qual = .val qual) (hsats : p.sats = .val sats)
    (ht : p.sent = .val text) :
    EndsWith s text (payloadAnswer (convCoord s.cfg latq hlat) (convCoord s.cfg lonq hlon) qual sats) 2 p :=
  EndsWith.turn (p' := { p with
      lat := .val (convCoord s.cfg latq hlat), lon := .val (convCoord s.cfg lonq hlon), pseq := 7#3 }) hp
    (fun turns => convertStep (spAt s p turns) latq lonq hlat hlon hlatq hhlat hlonq hhlon)
    (endsWith_of_payload rfl rfl rfl hqual hsats ht)

/-- From step 5 with its six fields. -/
theorem endsWith_of_fields {f : Nat → List Byte} (hp : p.pseq = 5#3)
    (hf : ∀ j, 2 ≤ j → j < 8 → HoldsField p j (f j)) (ht : p.sent = .val text) :
    EndsWith s text (fixAnswer s.cfg f) 3 p := by
  have hscan (turns : List Turn) := exec_pScan_of_holdsField (s := spAt s p turns) (hf 2 (by decide) (by decide))
    (hf 3 (by decide) (by decide)) (hf 4 (by decide) (by decide)) (hf 5 (by decide) (by decide))
    (hf 6 (by decide) (by decide)) (hf 7 (by decide) (by decide))
  refine EndsWith.turn (p' := { p with
    latq := .val (scanFrac s.cfg (f 2)), hlat := .val (hemi (f 3)), lonq := .val (scanFrac s.cfg (f 4))
    hlon := .val (hemi (f 5)), qual := .val (scanInt s.cfg (f 6)), sats := .val (scanInt s.cfg (f 7))
    pseq := 6#3 }) hp hscan ?_
  exact endsWith_of_scanned rfl rfl rfl rfl rfl rfl rfl ht

/-- From step 4 with the kept text in the buffer, its fields counted and stored. -/
theorem endsWith_of_split {cap : Nat} {w : List Byte} {fs fl : List (Reg Nat)} (hp : p.pseq = 4#3)
    (hw : holdsText cap p w) (hnf : p.nf = .val (splitText s.cfg w).length)
    (hfs : p.fs = overwrite (((splitText s.cfg w).take 8).map Prod.fst) fs)
    (hfl : p.fl = overwrite (((splitText s.cfg w).take 8).map Prod.snd) fl) (hkept : keptText s.cfg text = w)
    (hpfx : prefixMatches text = true) (ht : p.sent = .val text) :
    EndsWith s text (parseResult s.cfg text) 4 p := by
  have hcount (turns : List Turn) := exec_pCnt_of_nf (s := spAt s p turns) hnf
  subst hkept
  by_cases hn : (splitText s.cfg (keptText s.cfg text)).length < Config.nfieldMin
  · rw [parseResult_of_few_fields hpfx hn]
    simp only [if_pos hn] at hcount
    exact endsWith_of_raiseSp .incompleteSentence hp hcount ht
  · rw [parseResult_of_fields hpfx hn]
    simp only [if_neg hn] at hcount
    refine EndsWith.turn (p' := { p with pseq := 5#3 }) hp hcount (endsWith_of_fields rfl (fun j _ h8 => ?_) ht)
    exact holdsField_of_split hw hfs hfl h8 (h8.trans_le (Nat.le_of_not_lt hn))

/-- From step 3 with the kept text in the buffer. -/
theorem endsWith_of_text {cap : Nat} {w : List Byte} (hp : p.pseq = 3#3) (hw : holdsText cap p w)
    (hkept : keptText s.cfg text = w) (hpfx : prefixMatches text = true) (ht : p.sent = .val text) :
    EndsWith s text (parseResult s.cfg text) 5 p :=
  EndsWith.turn (p' := { p with
      nf := .val (splitText s.cfg w).length
      fs := overwrite (((splitText s.cfg w).take 8).map Prod.fst) p.fs
      fl := overwrite (((splitText s.cfg w).take 8).map Prod.snd) p.fl
      pseq := 4#3 }) hp
    (fun turns => exec_pSplit_of_holdsText (s := spAt s p turns) hw)
    (endsWith_of_split rfl hw rfl rfl rfl hkept hpfx ht)

/-- From step 2 with a sentence of the right type. -/
theorem endsWith_of_matched (hp : p.pseq = 2#3) (hpfx : prefixMatches text = true) (hz : 0x00#8 ∉ text)
    (ht : p.sent = .val text) : EndsWith s text (parseResult s.cfg text) 6 p :=
  EndsWith.turn (p' := { p with
      wlen := .val (keptText s.cfg text).length
      wbuf := overwrite (keptText s.cfg text ++ [0x00#8]) p.wbuf
      pseq := 3#3 }) hp
    (fun turns => exec_pCopy_of_sent (s := spAt s p turns) ht)
    (endsWith_of_text rfl (holdsText_of_copy hz rfl (overwrite_take _ _)) rfl hpfx ht)

/-- From step 1 with the sentence: the steps of a `PARSE` come to the fused result (R231). -/
theorem endsWith_of_latched (hp : p.pseq = 1#3) (hz : 0x00#8 ∉ text) (ht : p.sent = .val text) :
    EndsWith s text (parseResult s.cfg text) 7 p := by
  have htest (turns : List Turn) := exec_pPfx_of_sent (s := spAt s p turns) ht
  by_cases hpfx : prefixMatches text = true
  · simp only [if_pos hpfx] at htest
    exact EndsWith.turn (p' := { p with pseq := 2#3 }) hp htest (endsWith_of_matched rfl hpfx hz ht)
  · rw [parseResult_of_wrong_type hpfx]
    simp only [if_neg hpfx] at htest
    exact endsWith_of_raiseSp .wrongSentenceType hp htest ht

end Stages

/-! ## From the message to the response -/

/-- Settles O57: the message is latched, and seven turns of the unit come to the fused result. -/
theorem parseRun : Obligations.ParseRun := by
  intro s len operand rest text later hs hturns hc hlen htext
  have hk : nextTurn s = .hostSp := by rw [nextTurn, hturns]; rfl
  have htail : s.env.turns.tail = List.replicate 7 .sp ++ later := congrArg List.tail hturns
  have hlatch : step s = .next (spAt (withMessages rest s)
      { s.sp with prsp := noAnswerP, sent := .val text, pseq := 1#3 } (List.replicate 7 .sp ++ later)) := by
    rw [step_hostSp_of_parse hk hs hlen hc, parseTaken (withMessages rest (popTurn s)) operand text hs htext, ← htail]
    rfl
  obtain ⟨q, hrun, hprsp, hpseq, hsent⟩ :=
    endsWith_of_latched (s := withMessages rest s)
      (p := { s.sp with prsp := noAnswerP, sent := .val text, pseq := 1#3 }) rfl htext.1 rfl later
  exact ⟨_, (run_add (n := 7) (run_one hlatch)).trans hrun, hprsp, hpseq, hsent, rfl, rfl, rfl, rfl⟩

/-- The fused result depends on the kept characters alone: with a capacity of at least 8 the seven that
`P_PFX` compares are among them. -/
theorem parseResult_congr {c : Config} {text text' : List Byte} (hcap : 8 ≤ c.bufCap)
    (h : text'.take (c.bufCap - 1) = text.take (c.bufCap - 1)) : parseResult c text' = parseResult c text := by
  have hkept : keptText c text' = keptText c text := h
  have hpfx : prefixMatches text' = prefixMatches text := by
    have h7 : min 7 (c.bufCap - 1) = 7 := by omega
    have htake := congrArg (List.take 7) h
    rw [List.take_take, List.take_take, h7] at htake
    rw [prefixMatches, htake, prefixMatches]
  rw [parseResult, parseResult, hpfx, hkept]

/-- Settles O58: each run ends with the fused result of its sentence. -/
theorem parseIsPure : Obligations.ParseIsPure := by
  intro s s' t t' len len' operand operand' rest rest' text text' later later' hcfg hcap hs hs' hturns hturns' hc hlen
    htext hc' hlen' htext' hkept hrun hrun'
  obtain ⟨u, hu, hresult, -⟩ := parseRun s len operand rest text later hs hturns hc hlen htext
  obtain ⟨u', hu', hresult', -⟩ := parseRun s' len' operand' rest' text' later' hs' hturns' hc' hlen' htext'
  obtain rfl : u = t := Host.Outcome.next.inj (hu.symm.trans hrun)
  obtain rfl : u' = t' := Host.Outcome.next.inj (hu'.symm.trans hrun')
  rw [hresult', hresult, hcfg]
  exact parseResult_congr hcap hkept

end Sys2Proof.Machine
end

-- ==== The host's reads of the response registers (10_state.md R33, R44, R47; 60_exceptions.md R284) ====
section
/-! PROOFS. A read goes on exactly when the field it sees holds a value; in a response of the invariant's form that is
when the field is present. -/

namespace Sys2Proof.Machine

/-! ## What a read turn comes to -/

/-- A turn that reads `RSP` goes on, only its turn used up, when the field holds a value, and stops when not. -/
theorem step_readRsp {s : State} {f : RspField} (hk : nextTurn s = .readRsp f) :
    step s = if (s.rd.rsp.field f).isVal then .next (popTurn s) else .fault (.unspecResponse f) := by
  rw [step_of_nextTurn hk, fetchTurn, runFetched, hostReadsRsp, popTurn_rd]
  cases s.rd.rsp.field f <;> rfl

/-- The same of a turn that reads `PRSP`. -/
theorem step_readPrsp {s : State} {f : PrspField} (hk : nextTurn s = .readPrsp f) :
    step s = if (s.sp.prsp.field f).isVal then .next (popTurn s) else .fault (.unspecPResponse f) := by
  rw [step_of_nextTurn hk, fetchTurn, runFetched, hostReadsPrsp, popTurn_sp]
  cases s.sp.prsp.field f <;> rfl

/-! ## When a field holds a value -/

@[simp] theorem Rsp.ended_valid (op status : Byte) : (Rsp.ended op status).valid = true := rfl
@[simp] theorem Rsp.ended_op (op status : Byte) : (Rsp.ended op status).op = .val op := rfl
@[simp] theorem Rsp.ended_status (op status : Byte) : (Rsp.ended op status).status = .val status := rfl
@[simp] theorem Prsp.ended_valid (op status : Byte) : (Prsp.ended op status).valid = true := rfl
@[simp] theorem Prsp.ended_op (op status : Byte) : (Prsp.ended op status).op = .val op := rfl
@[simp] theorem Prsp.ended_status (op status : Byte) : (Prsp.ended op status).status = .val status := rfl

/-- An ended command without payload shows none: a `READ` among them did not succeed (30_encoding.md R93). -/
theorem Rsp.hasPayload_ended {op status : Byte} (h : op = opRead → status ≠ statusOk) :
    (Rsp.ended op status).hasPayload = false := by
  simpa [Rsp.hasPayload] using h

/-- A field of `RSP` holds a value exactly when it is present. -/
theorem Rsp.field_isVal_iff {r : Rsp} (f : RspField) (h : rspShape r) :
    (r.field f).isVal = true ↔
      r.valid = true ∧ (f = .op ∨ f = .status ∨ (r.op = .val 0x02#8 ∧ r.status = .val 0x00#8)) := by
  rcases h with rfl | ⟨op, status, rfl, hne⟩ | ⟨tf, pf, hf, tint, pint, hint, rfl⟩
  case inl => cases f <;> decide
  case inr.inl =>
    have hpay := Rsp.hasPayload_ended hne
    have hnotSuccess : ¬(op = 0x02#8 ∧ status = 0x00#8) := fun ⟨ho, hs⟩ => hne ho hs
    cases f <;> simp [Rsp.field, hpay, hnotSuccess, widenReg, Reg.isVal]
  case inr.inr => cases f <;> simp [Rsp.field, Rsp.hasPayload, widenReg, Reg.isVal, opRead, statusOk]

/-- A `PARSE` that failed shows no payload (R94). -/
theorem Prsp.hasPayload_ended {op status : Byte} (h : status ≠ statusOk) :
    (Prsp.ended op status).hasPayload = false := by
  simpa [Prsp.hasPayload] using h

/-- A field of `PRSP` holds a value exactly when it is present. -/
theorem Prsp.field_isVal_iff {r : Prsp} (f : PrspField) (h : prspShape r) :
    (r.field f).isVal = true ↔ r.valid = true ∧ (f = .op ∨ f = .status ∨ r.status = .val 0x00#8) := by
  rcases h with rfl | ⟨op, status, rfl, hne⟩ | ⟨lat, lon, qual, sats, rfl⟩
  case inl => cases f <;> decide
  case inr.inl =>
    have hpay := Prsp.hasPayload_ended (op := op) hne
    have hfailed : status ≠ 0x00#8 := hne
    cases f <;> simp [Prsp.field, hpay, hfailed, widenReg, Reg.isVal]
  case inr.inr => cases f <;> simp [Prsp.field, Prsp.hasPayload, widenReg, Reg.isVal, statusOk]

/-- Settles O59: a read turn asks whether its field holds a value, which the form of the response answers. -/
theorem hostReads : Obligations.HostReads := by
  refine ⟨fun s f hk hshape => ?_, fun s f hk hshape => ?_⟩
  · rw [step_readRsp hk, ← Rsp.field_isVal_iff f hshape]
    exact ⟨fun hp => if_pos hp, fun hp => if_neg hp⟩
  · rw [step_readPrsp hk, ← Prsp.field_isVal_iff f hshape]
    exact ⟨fun hp => if_pos hp, fun hp => if_neg hp⟩

end Sys2Proof.Machine
end

-- ==== CAL is written once per session (70_reset_and_hazards.md R314) ====
section
/-! PROOFS. Every turn but reset either keeps the session, that is `CAL` and the driver states from a successful `INIT`
on, or is a step of `INIT` that may write `CAL`. Only turns of the RD unit are of the second kind, and R24's tie of `SEQ`
to `DSTATE` keeps those out of a session. -/

namespace Sys2Proof.Machine
open Sys2Proof.Expect

/-! ## What a step can do to the calibration -/

/-- The driver states between a successful `INIT` and the next reset (10_state.md R23, R37). -/
def InSession (s : State) : Prop := s.rd.dstate = .ready ∨ s.rd.dstate = .reading

/-- From `s` to `t` the calibration stays, and so does a session. -/
structure KeepsSession (s t : State) : Prop where
  cal : t.rd.cal = s.rd.cal
  session : InSession s → InSession t

/-- What a failed `INIT` leaves (60_exceptions.md R280). -/
def CalLost (t : State) : Prop := t.rd.cal = noCal ∧ t.rd.dstate = .uninit

/-- The step from `s` to `t` is one of `INIT` that may write `CAL`: one of the three that decode a block, or one that
fails. -/
structure InitWrites (s t : State) : Prop where
  inInit : 1 ≤ s.rd.seq.toNat ∧ s.rd.seq.toNat ≤ 8
  writes : s.rd.seq = 2#4 ∨ s.rd.seq = 3#4 ∨ s.rd.seq = 4#4 ∨ CalLost t

/-- R24 keeps the steps of `INIT` out of a session. -/
theorem InitWrites.not_inSession {s t : State} (h : InitWrites s t)
    (htie : s.rd.dstate = .initializing ↔ 1 ≤ s.rd.seq.toNat ∧ s.rd.seq.toNat ≤ 8) : ¬ InSession s := by
  simp [InSession, htie.2 h.inInit]

theorem KeepsSession.of_dstate {s t : State} (hcal : t.rd.cal = s.rd.cal) (hd : t.rd.dstate = s.rd.dstate) :
    KeepsSession s t := ⟨hcal, by simp [InSession, hd]⟩

theorem KeepsSession.of_rd {s t : State} (h : t.rd = s.rd) : KeepsSession s t :=
  .of_dstate (by rw [h]) (by rw [h])

theorem KeepsSession.of_inSession {s t : State} (hcal : t.rd.cal = s.rd.cal) (ht : InSession t) : KeepsSession s t :=
  ⟨hcal, fun _ => ht⟩

theorem calLost_raiseRd_init (e : Err) (s : State) : CalLost (raiseRd opInit e s) := ⟨rfl, rfl⟩

/-! ## The steps of the RD unit -/

/-- `I_ID` keeps the session or fails. -/
theorem execIId_keeps_or_lost {s t : State} (ht : execIId s = .next t) : KeepsSession s t ∨ CalLost t := by
  obtain ⟨-, -, rfl⟩ | ⟨-, -, rfl⟩ | ⟨-, -, -, -, rfl⟩ | ⟨-, data, -, -, -, rfl⟩ := readTransfer_cases ht
  case inl => exact .inl (.of_dstate rfl rfl)
  case inr.inl => exact .inl (.of_rd rfl)
  case inr.inr.inl => exact .inr (calLost_raiseRd_init _ _)
  case inr.inr.inr =>
    unfold checkIdentity
    split
    · exact .inl (.of_dstate rfl rfl)
    · exact .inr (calLost_raiseRd_init _ _)

/-- A writing step keeps the session or fails. -/
theorem writeTransfer_keeps_or_lost {s t : State} {reg v : Byte} {next : BitVec 4}
    (ht : writeTransfer reg v next s = .next t) : KeepsSession s t ∨ CalLost t := by
  obtain ⟨-, -, rfl⟩ | ⟨-, -, rfl⟩ | ⟨-, -, -, -, rfl⟩ | ⟨-, -, -, -, rfl⟩ := writeTransfer_cases ht
  case inl => exact .inl (.of_dstate rfl rfl)
  case inr.inl => exact .inl (.of_rd rfl)
  case inr.inr.inl => exact .inr (calLost_raiseRd_init _ _)
  case inr.inr.inr => exact .inl (.of_dstate rfl rfl)

/-- The burst keeps the session: where it fails it returns to `READY`. -/
theorem execRData_keepsSession {s t : State} (ht : execRData s = .next t) : KeepsSession s t := by
  obtain ⟨-, -, rfl⟩ | ⟨-, -, rfl⟩ | ⟨-, -, -, -, rfl⟩ | ⟨-, -, -, -, -, rfl⟩ := readTransfer_cases ht
  case inl => exact .of_dstate rfl rfl
  case inr.inl => exact .of_rd rfl
  case inr.inr.inl => exact .of_inSession rfl (.inl rfl)
  case inr.inr.inr => exact .of_dstate rfl rfl

/-- A step that reads operands keeps the session if what follows does. -/
theorem onRead_keepsSession {α : Type} {s t : State} {x : Except Fault α} {k : α → State}
    (ht : onRead x (fun a => .next (k a)) = .next t) (hk : ∀ a, KeepsSession s (k a)) : KeepsSession s t := by
  obtain ⟨a, -, ha⟩ := onRead_next ht
  cases ha
  exact hk a

/-- `R_DONE` ends in `READY`. -/
theorem execRDone_keepsSession {s t : State} (ht : execRDone s = .next t) : KeepsSession s t := by
  obtain ⟨f, -, hf⟩ := onRead_next ht
  exact onRead_keepsSession hf fun _ => .of_inSession rfl (.inl rfl)

/-- The step that `SEQ` names keeps the session, or is one of `INIT` that may write `CAL`. -/
theorem exec_decodeSeq_keepsSession_or_initWrites {s t : State} (ht : exec (decodeSeq s.rd.seq) s = .next t) :
    KeepsSession s t ∨ InitWrites s t := by
  have inInit {k : BitVec 4} (hs : s.rd.seq = k) (hk : 1 ≤ k.toNat ∧ k.toNat ≤ 8) :
      1 ≤ s.rd.seq.toNat ∧ s.rd.seq.toNat ≤ 8 := hs ▸ hk
  have failing {k : BitVec 4} (hs : s.rd.seq = k) (hk : 1 ≤ k.toNat ∧ k.toNat ≤ 8)
      (h : KeepsSession s t ∨ CalLost t) : KeepsSession s t ∨ InitWrites s t :=
    h.imp_right fun hl => ⟨inInit hs hk, .inr (.inr (.inr hl))⟩
  obtain hs | hs | hs | hs | hs | hs | hs | hs | hs | hs | hs | hs | hs | hs | hs | hs := seq_cases s.rd.seq <;>
    rw [hs] at ht
  · cases ht
    exact .inl (.of_rd rfl)
  · exact failing hs (by decide) (execIId_keeps_or_lost ht)
  · exact .inr ⟨inInit hs (by decide), .inl hs⟩
  · exact .inr ⟨inInit hs (by decide), .inr (.inl hs)⟩
  · exact .inr ⟨inInit hs (by decide), .inr (.inr (.inl hs))⟩
  · exact failing hs (by decide) (writeTransfer_keeps_or_lost ht)
  · exact failing hs (by decide) (writeTransfer_keeps_or_lost ht)
  · exact failing hs (by decide) (writeTransfer_keeps_or_lost ht)
  · cases ht
    exact .inl (.of_inSession rfl (.inl rfl))
  · exact .inl (execRData_keepsSession ht)
  · exact .inl (onRead_keepsSession ht fun _ => .of_dstate rfl rfl)
  · exact .inl (onRead_keepsSession ht fun _ => .of_dstate rfl rfl)
  · exact .inl (onRead_keepsSession ht fun _ => .of_dstate rfl rfl)
  · exact .inl (onRead_keepsSession ht fun _ => .of_dstate rfl rfl)
  · exact .inl (onRead_keepsSession ht fun _ => .of_dstate rfl rfl)
  · exact .inl (execRDone_keepsSession ht)

/-! ## The other turns -/

/-- `INIT` starts only outside a session; in `READY` it is refused (40_commands.md R125). -/
theorem execInit_keepsSession {s t : State} (ht : execInit s = .next t) : KeepsSession s t := by
  unfold execInit at ht
  split at ht
  · split at ht <;> cases ht
    case h_1 => exact .of_dstate rfl rfl
    case h_2 hd => exact ⟨rfl, by simp [InSession, hd]⟩
  · cases ht

/-- `READ` starts from `READY` and goes to `READING`; elsewhere it is refused. -/
theorem execRead_keepsSession {s t : State} (ht : execRead s = .next t) : KeepsSession s t := by
  unfold execRead at ht
  split at ht
  · split at ht <;> cases ht
    case h_1 => exact .of_inSession rfl (.inr rfl)
    all_goals exact .of_dstate rfl rfl
  · cases ht

/-- The host's turn on `CMD`. -/
theorem runFetched_fetchHost_keepsSession {s t : State} (ht : runFetched (fetchHost s) = .next t) :
    KeepsSession s t := by
  have hword {rest : List Byte} (h : KeepsSession (withWords rest s) t) : KeepsSession s t := ⟨h.cal, h.session⟩
  obtain hf | ⟨-, rest, hf | hf | ⟨op, hf⟩⟩ := fetchHost_cases s <;> rw [hf] at ht
  · cases ht
    exact .of_rd rfl
  · exact hword (execInit_keepsSession ht)
  · exact hword (execRead_keepsSession ht)
  · cases ht
    exact .of_dstate rfl rfl

/-- A response that arrives leaves the RD unit as it is: the unit takes it at its own step. -/
theorem deliver_rd {a : BusRsp} {s t : State} (ht : deliver a s = .next t) : t.rd = s.rd := by
  obtain ⟨-, -, rfl⟩ | ⟨-, -, -, rfl⟩ := deliver_cases ht <;> rfl

/-- Carrying out a request leaves the RD unit as it is. -/
theorem exec_instrOfReq_rd {q : BusReq} {s t : State} (ht : exec (instrOfReq q) s = .next t) : t.rd = s.rd := by
  obtain he | ⟨-, he⟩ | ⟨a, x, -, he⟩ := exec_instrOfReq_cases q s <;> rw [he] at ht
  · cases ht
    rfl
  · cases ht
  · exact deliver_rd (s := answered x s) ht

/-- The collaborator's turn leaves the RD unit as it is. -/
theorem runFetched_fetchBus_rd {s t : State} (ht : runFetched (fetchBus s) = .next t) : t.rd = s.rd := by
  unfold fetchBus at ht
  split at ht
  · cases ht
    rfl
  · exact exec_instrOfReq_rd ht

/-- A turn on the RD side that is not the unit's own keeps the session. -/
theorem runFetched_keepsSession {s t : State} {k : Turn} (hk : OnRdSide k) (hrd : k ≠ .rd)
    (ht : runFetched (fetchTurn k s) = .next t) : KeepsSession s t := by
  obtain rfl | rfl | rfl | rfl | ⟨f, rfl⟩ := hk
  case inl => exact absurd rfl hrd
  case inr.inl => exact runFetched_fetchHost_keepsSession ht
  case inr.inr.inl => exact .of_rd (runFetched_fetchBus_rd ht)
  case inr.inr.inr.inl =>
    obtain ⟨-, rfl⟩ := deliverUnasked_cases ht
    exact .of_rd rfl
  case inr.inr.inr.inr => exact .of_rd (by rw [hostReadsRsp_next ht])

/-! ## CalWrittenOncePerSession -/

/-- A step that is neither the RD unit's nor reset keeps the session. -/
theorem step_keepsSession {s t : State} (hrd : nextTurn s ≠ .rd) (hrst : nextTurn s ≠ .rst) (ht : step s = .next t) :
    KeepsSession s t := by
  obtain hk | hk | hk := turn_side (nextTurn s)
  · rw [step_of_nextTurn rfl] at ht
    obtain ⟨hcal, hsession⟩ := runFetched_keepsSession hk hrd ht
    exact ⟨hcal, hsession⟩
  · obtain ⟨hunit, -⟩ := step_frame_of_onSpSide hk ht
    exact .of_rd hunit
  · exact absurd hk hrst

/-- A step other than reset keeps the session, or is the RD unit's in an `INIT` that may write `CAL`. -/
theorem step_keepsSession_or_initWrites {s t : State} (hrst : nextTurn s ≠ .rst) (ht : step s = .next t) :
    KeepsSession s t ∨ nextTurn s = .rd ∧ InitWrites s t := by
  by_cases hrd : nextTurn s = .rd
  · rw [step_rd hrd] at ht
    obtain ⟨hcal, hsession⟩ | ⟨hinit, hwrites⟩ :=
      exec_decodeSeq_keepsSession_or_initWrites (s := popTurn s) ht
    · exact .inl ⟨hcal, hsession⟩
    · exact .inr ⟨hrd, hinit, hwrites⟩
  · exact .inl (step_keepsSession hrd hrst ht)

/-- Settles O54: a step keeps the session, or is one of `INIT`, which R24 keeps out of a session. -/
theorem calWrittenOncePerSession : Obligations.CalWrittenOncePerSession := by
  intro s t ht hrst
  obtain h | ⟨hrd, h⟩ := step_keepsSession_or_initWrites hrst ht
  · exact ⟨fun hne => absurd h.cal hne, fun _ hsession => ⟨h.cal, h.session hsession⟩⟩
  · exact ⟨fun _ => ⟨hrd, h.writes⟩, fun htie hsession => absurd hsession (h.not_inSession htie)⟩

end Sys2Proof.Machine
end
